-- ==== Sys2Proof/Word.lean ====
section
/-! DEFINITION. The words of the flash driver: bytes, 24-bit addresses and lengths, 51-bit request words. -/

namespace Sys2Proof

/-- A byte on the bus or in the array (R8). -/
abbrev Byte := BitVec 8

/-- An address on the bus, `ADDR_W` = 24 bits (R5). -/
abbrev Addr := BitVec 24

/-- The length operand of a request, `LEN_W` = 24 bits (R5, D3). -/
abbrev Len := BitVec 24

/-- A request code, `req_op` (R86). -/
abbrev Code := BitVec 3

/-- A request word, code then address then length (R87). -/
abbrev ReqWord := BitVec 51

end Sys2Proof
end

