-- ==== Sys2Proof/Config.lean ====
section
/-! DEFINITION. What an implementation fixes (R5) and the free values. -/

namespace Sys2Proof

/-- What a chip makes of a page-program frame without data (U3: a model that lets the block send one must give this as a
parameter). -/
inductive EmptyProgram where
  | ignored       -- nothing happens, the latch stays
  | executed      -- the latch is used up and the chip is busy, no byte changes
  | undetermined  -- the chip's state afterwards is a free value
  deriving DecidableEq, Repr

/-- How a request outside R56, or with a reserved code (R89), is taken. -/
inductive ContractReading where
  | refuse   -- what the spec asks of a model (R12, R56, R89)
  | literal  -- what the spec says the hardware does: it carries on (R56, U1, U8)
  deriving DecidableEq, Repr

/-- The parameters of R5. A claim that names none of them holds for every value. -/
structure Params where
  capacity               : Nat
  dummyTx                : Byte
  pollLimit              : Option Nat
  zeroLenWriteEmitsFrame : Bool
  sectorSize             : Nat
  emptyProgram           : EmptyProgram
  outOfContract          : ContractReading
  deriving DecidableEq, Repr

/-- The reference configuration (R5); `sectorSize` is PRESUMED, the chip family's (G8, log 3). -/
def Params.reference : Params where
  capacity := 2097152
  dummyTx := 0x00#8
  pollLimit := none
  zeroLenWriteEmitsFrame := false
  sectorSize := 65536
  emptyProgram := .undetermined
  outOfContract := .refuse

/-- The values R5, R218 and R246 allow. -/
def Params.admissible (p : Params) : Bool :=
  decide (0 < p.capacity) && decide (p.capacity ≤ 2 ^ 24) && decide (0 < p.sectorSize)
    && decide (p.capacity % p.sectorSize = 0) && decide (p.sectorSize % 256 = 0) && decide (p.pollLimit ≠ some 0)

/-! Free values. Each is applied to the draw counter of the state, which every step advances; nothing can be proved of
what they return. -/

/-- Whether the chip takes its "finished" step now (R214, U13; log 5). -/
opaque Config.freeFinish : Nat → Bool

/-- Bits 7:1 of a status byte (R213, U7; log 6). -/
opaque Config.freeStatus : Nat → BitVec 7

/-- A received byte that the spec leaves open (R216, R223, U4, U5, U12; log 8). -/
opaque Config.freeByte : Nat → Byte

/-- The array after a frame whose effect the spec leaves open (R210; log 7). -/
opaque Config.freeCells : Nat → List (Nat × Byte)

/-- The write-enable latch after such a frame (R210; log 7). -/
opaque Config.freeLatch : Nat → Bool

/-- The busy bit after such a frame (R210; log 7). -/
opaque Config.freeBusy : Nat → Bool

/-- `op` after a reset in a run (R260; log 18). -/
opaque Config.freeOp : Nat → Code

/-- `cur_addr` after a reset in a run (R260; log 18). -/
opaque Config.freeAddr : Nat → Addr

/-- `remaining` after a reset in a run (R260; log 18). -/
opaque Config.freeRemaining : Nat → Len

/-- `chunk` after a reset in a run (R260; log 18). -/
opaque Config.freeChunk : Nat → BitVec 9

/-- `sr_shadow` after a reset in a run (R260; log 18). -/
opaque Config.freeShadow : Nat → Byte

end Sys2Proof
end

