-- ==== Sys2Proof/Machine/Operands.lean ====
section
/-! DEFINITION. Operand forms: the address bytes of a frame header, the page split, the operand contract. -/

namespace Sys2Proof.Machine

/-- `A[23:16]`, byte 1 of an address-carrying frame (R83). -/
def addrByte2 (a : Addr) : Byte := a.extractLsb' 16 8

/-- `A[15:8]`, byte 2 (R83). -/
def addrByte1 (a : Addr) : Byte := a.extractLsb' 8 8

/-- `A[7:0]`, byte 3 (R83). -/
def addrByte0 (a : Addr) : Byte := a.extractLsb' 0 8

/-- `A = {byte1, byte2, byte3}` (R83). -/
def addrOfBytes (b2 b1 b0 : Byte) : Addr := b2 ++ b1 ++ b0

/-- The four header bytes of formats FA, FAR and FAW, opcode first (R83, R110). -/
def header (opc : Byte) (a : Addr) : List Byte := [opc, addrByte2 a, addrByte1 a, addrByte0 a]

/-- `PAGE_SIZE` (R5). -/
def pageSize : Nat := 256

/-- The page offset `addr mod PAGE_SIZE` (R6). -/
def pageOffset (a : Addr) : Nat := a.toNat % pageSize

/-- The size of the next chunk: `min(PAGE_SIZE - (cur_addr mod PAGE_SIZE), remaining)` (R161). -/
def chunkSize (a : Addr) (remaining : Len) : Nat := min (pageSize - pageOffset a) remaining.toNat

/-- Where the chip puts data byte `k` of a page program at `a`: it stays in the page of `a`, wrapping past its end
(R217, R55). -/
def programTarget (a : Addr) (k : Nat) : Nat := a.toNat / pageSize * pageSize + (pageOffset a + k) % pageSize

/-- The first byte of the sector that contains `a` (R218). -/
def sectorBase (p : Params) (a : Addr) : Nat := a.toNat / p.sectorSize * p.sectorSize

/-- The operand contract of READ and WRITE (R56). -/
def rangeInContract (p : Params) (a : Addr) (n : Nat) : Bool :=
  decide (a.toNat < p.capacity) && decide (a.toNat + n ≤ p.capacity)

/-- The operand contract of ERASE_SECTOR (R56). -/
def addrInContract (p : Params) (a : Addr) : Bool := decide (a.toNat < p.capacity)

/-- A page-program frame the splitter may send: 1 to 256 bytes, all in one page (R54, R85). -/
def fitsPage (a : Addr) (n : Nat) : Bool := decide (1 ≤ n) && decide (pageOffset a + n ≤ pageSize)

end Sys2Proof.Machine
end

