-- ==== Sys2Proof/Syntax.lean ====
section
/-! DEFINITION. The twelve instructions: six bus command frames (R81) and six client requests (R86). -/

namespace Sys2Proof

/-- One constructor per row of spec/opcode_table.json. A request keeps the operand fields it does not use, because
acceptance loads them whatever the request (R192). -/
inductive Instr where
  /-- page-program frame, format FAW (R114) -/
  | pp (addr : Addr) (data : List Byte)
  /-- read-data frame, format FAR, `n` data positions (R113) -/
  | readData (addr : Addr) (n : Nat)
  /-- read-status frame, format FS (R111) -/
  | rdsr
  /-- write-enable frame, format F0 (R112) -/
  | wren
  /-- bulk-erase frame, format F0 (R116) -/
  | be
  /-- sector-erase frame, format FA (R115) -/
  | se (addr : Addr)
  /-- request READ, code 0 (R150) -/
  | readReq (addr : Addr) (len : Len)
  /-- request WRITE, code 1; its data are on the write-data stream (R88, R160) -/
  | writeReq (addr : Addr) (len : Len)
  /-- request ERASE_SECTOR, code 2 (R180) -/
  | eraseSectorReq (addr : Addr) (len : Len)
  /-- request ERASE_ALL, code 3 (R181) -/
  | eraseAllReq (addr : Addr) (len : Len)
  /-- request WAIT, code 4 (R130) -/
  | waitReq (addr : Addr) (len : Len)
  /-- request ENABLE_WRITE, code 5 (R140) -/
  | enableWriteReq (addr : Addr) (len : Len)
  deriving DecidableEq, Repr

/-- What an instruction is encoded as: the bytes the block transmits in one frame (R80), or a request word (R87). -/
inductive Encoded where
  | frame (bytes : List Byte)
  | request (word : ReqWord)
  deriving DecidableEq, Repr

end Sys2Proof
end

