-- ==== Sys2Proof/Decode.lean ====
section
/-! DEFINITION. The opcodes and request codes, the decoder of recorded frames and request words, and after it the encoder. -/

namespace Sys2Proof

/-! The six opcodes, byte 0 of a frame (R81). -/

/-- page-program -/
def opcPP : Byte := 0x02#8
/-- read-data -/
def opcREAD : Byte := 0x03#8
/-- read-status -/
def opcRDSR : Byte := 0x05#8
/-- write-enable -/
def opcWREN : Byte := 0x06#8
/-- bulk-erase -/
def opcBE : Byte := 0xC7#8
/-- sector-erase -/
def opcSE : Byte := 0xD8#8

/-! The six request codes (R86). Codes 6 and 7 are reserved (R89). -/

/-- READ -/
def codeRead : Code := 0#3
/-- WRITE -/
def codeWrite : Code := 1#3
/-- ERASE_SECTOR -/
def codeEraseSector : Code := 2#3
/-- ERASE_ALL -/
def codeEraseAll : Code := 3#3
/-- WAIT -/
def codeWait : Code := 4#3
/-- ENABLE_WRITE -/
def codeEnableWrite : Code := 5#3

/-- Why bytes or a word are no instruction. -/
inductive DecodeError where
  /-- codes 6 and 7 (R89) -/
  | reservedCode
  /-- no byte between SEL and DES: not a frame (R10) -/
  | emptyFrame
  /-- byte 0 is none of the six opcodes (R81, R90) -/
  | unknownOpcode
  /-- byte 0 is an opcode, but DES fell at a length its format does not have (R84) -/
  | wrongLength
  deriving DecidableEq, Repr

/-- The code field of a request word, bits 50:48 (R87). -/
def reqCode (w : ReqWord) : Code := w.extractLsb' 48 3

/-- The address field, bits 47:24 (R87). -/
def reqAddr (w : ReqWord) : Addr := w.extractLsb' 24 24

/-- The length field, bits 23:0 (R87). -/
def reqLen (w : ReqWord) : Len := w.extractLsb' 0 24

/-- A frame from the bytes transmitted between SEL and DES: its format from byte 0, its length from where DES fell (R84).
What was transmitted in a receive position is not looked at (R93; log 25). -/
def decodeFrame : List Byte → Except DecodeError Instr
  | [] => .error .emptyFrame
  | opc :: rest =>
    if opc = opcPP then
      match rest with
      | b2 :: b1 :: b0 :: d => .ok (.pp (Machine.addrOfBytes b2 b1 b0) d)
      | _ => .error .wrongLength
    else if opc = opcREAD then
      match rest with
      | b2 :: b1 :: b0 :: d => .ok (.readData (Machine.addrOfBytes b2 b1 b0) d.length)
      | _ => .error .wrongLength
    else if opc = opcRDSR then
      match rest with
      | [_] => .ok .rdsr
      | _ => .error .wrongLength
    else if opc = opcWREN then
      match rest with
      | [] => .ok .wren
      | _ => .error .wrongLength
    else if opc = opcBE then
      match rest with
      | [] => .ok .be
      | _ => .error .wrongLength
    else if opc = opcSE then
      match rest with
      | [b2, b1, b0] => .ok (.se (Machine.addrOfBytes b2 b1 b0))
      | _ => .error .wrongLength
    else .error .unknownOpcode

/-- A request from its word (R86, R87). -/
def decodeRequest (w : ReqWord) : Except DecodeError Instr :=
  if reqCode w = codeRead then .ok (.readReq (reqAddr w) (reqLen w))
  else if reqCode w = codeWrite then .ok (.writeReq (reqAddr w) (reqLen w))
  else if reqCode w = codeEraseSector then .ok (.eraseSectorReq (reqAddr w) (reqLen w))
  else if reqCode w = codeEraseAll then .ok (.eraseAllReq (reqAddr w) (reqLen w))
  else if reqCode w = codeWait then .ok (.waitReq (reqAddr w) (reqLen w))
  else if reqCode w = codeEnableWrite then .ok (.enableWriteReq (reqAddr w) (reqLen w))
  else .error .reservedCode

/-- The decoder, total on both spaces of the opcode table. -/
def decode : Encoded → Except DecodeError Instr
  | .frame bytes => decodeFrame bytes
  | .request w => decodeRequest w

/-- A request word from its three fields (R87). -/
def packRequest (c : Code) (a : Addr) (n : Len) : ReqWord := c ++ a ++ n

/-- The encoder: the bytes the block transmits for a frame (R82), with `dummy` in the receive positions (R93), or the request
word (R87). -/
def encode (dummy : Byte) : Instr → Encoded
  | .pp a d => .frame (Machine.header opcPP a ++ d)
  | .readData a n => .frame (Machine.header opcREAD a ++ List.replicate n dummy)
  | .rdsr => .frame [opcRDSR, dummy]
  | .wren => .frame [opcWREN]
  | .be => .frame [opcBE]
  | .se a => .frame (Machine.header opcSE a)
  | .readReq a n => .request (packRequest codeRead a n)
  | .writeReq a n => .request (packRequest codeWrite a n)
  | .eraseSectorReq a n => .request (packRequest codeEraseSector a n)
  | .eraseAllReq a n => .request (packRequest codeEraseAll a n)
  | .waitReq a n => .request (packRequest codeWait a n)
  | .enableWriteReq a n => .request (packRequest codeEnableWrite a n)

/-! The opcode table's numbering of an instruction's bits (log 21). -/

/-- The first `n` bytes of `w`, byte `k` being bits `8k+7 .. 8k`. -/
def tableBytes (w : Nat) : Nat → List Byte
  | 0 => []
  | n + 1 => BitVec.ofNat 8 w :: tableBytes (w / 256) n

/-- The fewest bytes of a frame with this opcode that the block sends (R82, R85). -/
def shortestFrame (opc : Byte) : Nat :=
  if opc = opcPP then 5
  else if opc = opcREAD then 4
  else if opc = opcSE then 4
  else if opc = opcRDSR then 2
  else 1

/-- The frame whose low `nbits` bits are `w` and whose other bits are 0, as long as its opcode needs. -/
def tableFrame (nbits w : Nat) : List Byte :=
  tableBytes (w % 2 ^ nbits) (max (nbits / 8) (shortestFrame (BitVec.ofNat 8 w)))

/-- A row of the table of 51 bits, or 56 in whole bytes, is a request word; a shorter or longer one is a frame (log 21). -/
def tableEncoded (nbits w : Nat) : Encoded :=
  if nbits = 51 ∨ nbits = 56 then .request (BitVec.ofNat 51 w) else .frame (tableFrame nbits w)

/-- The instruction the decoder reads from an instruction with these bits. -/
def decodeTableWord (nbits w : Nat) : Option Instr :=
  match decode (tableEncoded nbits w) with
  | .ok i => some i
  | .error _ => none

end Sys2Proof
end

