-- ==== Sys2Proof/Machine/State.lean ====
section
/-! DEFINITION. The state: the block's registers (R20), the transfer and frame in progress, the chip (R211), the input ports
and the environment (R36), and the model's own draw counter and event log. -/

namespace Sys2Proof.Machine

/-- The 17 states of the sequencer (R21). -/
inductive Seq where
  | idle | pSel | pCmd | pSta | pDes | wSel | wCmd | wDes
  | cSel | cOp | cA2 | cA1 | cA0 | cRd | cWr | cDes | fin
  deriving DecidableEq, Repr

/-- One byte exchange `X(t)->r`: the byte shifted out, and the byte shifted in where the block uses it (R10, R92). -/
structure Exchange where
  tx : Byte
  rx : Option Byte
  deriving DecidableEq, Repr

/-- What an observer sees (R10, R279). -/
inductive Event where
  | sel                                 -- the chip is selected
  | xfer (tx : Byte) (rx : Option Byte) -- a byte exchange; `none` where the block discards what it receives
  | des                                 -- the chip is released
  | taken (b : Byte)                    -- WDataPop() took `b` from the write-data stream
  | pushed (b : Byte)                   -- RDataPush(b)
  | done                                -- Done()
  deriving DecidableEq, Repr

/-- The array as address and byte pairs, addresses strictly rising, none listed with what an unlisted address reads as. -/
abbrev Mem := List Host.Cell

/-- The chip's state (R211). -/
structure Chip where
  mem : Mem
  wel : Bool
  wip : Bool
  deriving DecidableEq, Repr

/-- What the transport does with a byte transfer (R31, R202, R223). -/
inductive Transport where
  | faithful    -- completes it and delivers both bytes unchanged (TransportLive, TransportFaithful)
  | unfaithful  -- completes it; any byte may arrive on either side (U12)
  | stalled     -- does not complete it (U17)
  deriving DecidableEq, Repr

/-- When a busy chip takes its "finished" step (R214, U13). -/
inductive Pace where
  | free    -- at any time or never: a free value decides before every step
  | prompt  -- before the next step
  | every (n : Nat)  -- before each step whose draw counter is a multiple of n + 1: a chip that stays busy for a while
  | never   -- never: the hung chip
  deriving DecidableEq, Repr

/-- The machine. -/
structure State where
  params      : Params           -- R5
  seq         : Seq              -- R21
  op          : Code             -- R22
  curAddr     : Addr             -- R23
  remaining   : Len              -- R22
  chunk       : BitVec 9         -- R24
  srShadow    : Byte             -- R25
  btSelect    : Bool             -- R20
  pollCnt     : Nat              -- R246
  timeoutErr  : Bool             -- R246
  outstanding : Option Byte      -- R196: bt_tx of a transfer started and not completed
  frame       : List Exchange    -- R212: the exchanges since SEL
  chip        : Chip             -- R211
  rst         : Bool             -- R27
  requests    : List ReqWord     -- R28: the words the client offers, in order
  wdata       : List Byte        -- R29: the bytes the client offers, in order
  transport   : Transport        -- R31
  pace        : Pace             -- R214
  draw        : Nat              -- the model's: index of the free values
  events      : List Event       -- the model's: what an observer has seen, oldest first
  deriving DecidableEq, Repr

/-- Why the machine stops. The block itself raises nothing (R240). -/
inductive Fault where
  /-- Raised by `stepRow` and `afterInstr` in a state for which the table of R191 has no row (C_OP with WAIT, and so on). No run
  from reset reaches one. Safe. -/
  | noTransition
  deriving DecidableEq, Repr

/-- Why a request is given no meaning (R12). -/
inductive Refusal where
  /-- An instruction without a meaning, raised by `exec` alone; no arm uses it. Safe. -/
  | notModelled (mnemonic : String)
  /-- READ, WRITE or ERASE_SECTOR outside R56, raised by their meanings under the reading `refuse`. Safe. -/
  | outOfContract
  /-- Request code 6 or 7 (R89), raised by `acceptReserved` under the reading `refuse`. Safe. -/
  | reservedRequest
  deriving DecidableEq, Repr

/-- Right after reset (R37). `seq`, `btSelect`, `pollCnt`, `timeoutErr` are the spec's. DESIGN CHOICE: 0 for `op`, `curAddr`,
`remaining`, `chunk`, `srShadow` (log 2). PRESUMED: the chip as the family delivers it (log 3). DESIGN CHOICE: a faithful transport
(log 9). Nothing is offered yet. -/
def State.reset : State where
  params := Params.reference
  seq := .idle
  op := 0#3
  curAddr := 0#24
  remaining := 0#24
  chunk := 0#9
  srShadow := 0#8
  btSelect := false
  pollCnt := 0
  timeoutErr := false
  outstanding := none
  frame := []
  chip := { mem := [], wel := false, wip := false }
  rst := false
  requests := []
  wdata := []
  transport := .faithful
  pace := .free
  draw := 0
  events := []

end Sys2Proof.Machine
end

