-- ==== Sys2Proof/Machine/Memory.lean ====
section
/-! DEFINITION. The flash array as a canonical list of cells: read, write, erase, program. -/

namespace Sys2Proof.Machine

/-- What an unlisted address reads as: an erased byte, all 1 (DESIGN CHOICE, log 4). -/
def erasedByte : Byte := 0xFF#8

/-- The byte at `a`. -/
def Mem.read (m : Mem) (a : Nat) : Byte :=
  match m with
  | [] => erasedByte
  | (k, b) :: rest => if k = a then b else Mem.read rest a

/-- `m` with a cell for `a` in front, unless it would read as an unlisted address does. -/
def Mem.cons (a : Nat) (b : Byte) (m : Mem) : Mem := if b = erasedByte then m else (a, b) :: m

/-- `m` with byte `b` at `a`, in canonical form again. -/
def Mem.write (m : Mem) (a : Nat) (b : Byte) : Mem :=
  match m with
  | [] => Mem.cons a b []
  | (k, c) :: rest =>
    if a < k then Mem.cons a b ((k, c) :: rest)
    else if a = k then Mem.cons a b rest
    else (k, c) :: Mem.write rest a b

/-- `m` with every byte of `[lo, hi)` erased (R218). -/
def Mem.erase (m : Mem) (lo hi : Nat) : Mem := m.filter fun c => !(decide (lo ≤ c.1) && decide (c.1 < hi))

/-- Programs data bytes `k`, `k + 1`, … of a page program at `a`: each byte ends as old AND data (R217). -/
def Mem.program (m : Mem) (a : Addr) (k : Nat) (d : List Byte) : Mem :=
  match d with
  | [] => m
  | b :: rest =>
    Mem.program (m.write (programTarget a k) (m.read (programTarget a k) &&& b)) a (k + 1) rest

/-- The array that a list of cells describes, cells outside the array dropped. -/
def Mem.ofCells (capacity : Nat) (cells : List (Nat × Byte)) : Mem :=
  match cells with
  | [] => []
  | (a, b) :: rest => if a < capacity then Mem.write (Mem.ofCells capacity rest) a b else Mem.ofCells capacity rest

/-- The canonical form: addresses strictly rising, no byte listed as erased, nothing outside the array (R50). -/
def Mem.wf (capacity : Nat) (m : Mem) : Bool :=
  match m with
  | [] => true
  | (a, b) :: rest =>
    decide (a < capacity) && decide (b ≠ erasedByte) && rest.all (fun c => decide (a < c.1)) && Mem.wf capacity rest

end Sys2Proof.Machine
end

