-- ==== Sys2Proof/Machine/Flags.lean ====
section
/-! DEFINITION. The two flags WIP and WEL (R33): the status byte, what the block reads of it, and what each frame does to the
chip. A reaction is `none` where the spec leaves it open (R210). -/

namespace Sys2Proof.Machine

/-- The status byte the chip answers with: bit 0 is WIP, bits 7:1 a free value (R213; log 6). -/
def statusByte (wip : Bool) (draw : Nat) : Byte := Config.freeStatus draw ++ BitVec.ofBool wip

/-- Bit 0 of `sr_shadow`, the only bit the block looks at (R25). -/
def State.wipSeen (s : State) : Bool := s.srShadow.getLsbD 0

/-- The chip takes a program or erase: latch set and not busy (R217, R218, R219). -/
def Chip.ready (c : Chip) : Bool := c.wel && !c.wip

/-- A program or erase is accepted: the new array, latch used up, busy (R217; at acceptance, R222, log 14). -/
def Chip.accept (_c : Chip) (m : Mem) : Chip := { mem := m, wel := false, wip := true }

/-- RDSR changes nothing, busy or not (R213). -/
def Chip.onRdsr (c : Chip) : Option Chip := some c

/-- WREN sets the latch of an idle chip (R215); a busy chip's reaction is open (R221). -/
def Chip.onWren (c : Chip) : Option Chip := if c.wip then none else some { c with wel := true }

/-- READ of `n` bytes at `a` changes nothing in an idle chip (R216). Open while busy (R221), and for an address or data at or past
the end of the array (R56, R155, R216, U4; log 7). -/
def Chip.onRead (p : Params) (a : Addr) (n : Nat) (c : Chip) : Option Chip :=
  if !c.wip && rangeInContract p a n then some c else none

/-- PP without data: the spec gives no reaction, the parameter does (U3; log 15). -/
def Chip.onEmptyPP (p : Params) (c : Chip) : Option Chip :=
  match p.emptyProgram with
  | .ignored => some c
  | .executed => some (c.accept c.mem)
  | .undetermined => none

/-- Every byte the frame programs lies in the array (R217). -/
def programInside (p : Params) (a : Addr) (n : Nat) : Bool :=
  (List.range n).all fun k => decide (programTarget a k < p.capacity)

/-- PP programs 1 to 256 bytes (R217), wrapping inside the page (R55). Open without the latch (R220), while busy (R221), beyond
the array, or with more than 256 bytes (N15). -/
def Chip.onPP (p : Params) (a : Addr) (d : List Byte) (c : Chip) : Option Chip :=
  if !c.ready then none
  else if d = [] then c.onEmptyPP p
  else if d.length ≤ pageSize ∧ programInside p a d.length = true then some (c.accept (c.mem.program a 0 d))
  else none

/-- SE erases the sector that contains `a` (R218). -/
def Chip.onSE (p : Params) (a : Addr) (c : Chip) : Option Chip :=
  if c.ready && addrInContract p a && decide (0 < p.sectorSize) then
    some (c.accept (c.mem.erase (sectorBase p a) (sectorBase p a + p.sectorSize)))
  else none

/-- BE erases the whole array (R219). -/
def Chip.onBE (c : Chip) : Option Chip := if c.ready then some (c.accept []) else none

end Sys2Proof.Machine
end

