-- ==== Sys2Proof/Machine/Ops.lean ====
section
/-! DEFINITION. The named operations: bus events, the byte transfer, what the chip answers, the environment's steps, loading a
request, reset. The block takes no exception and returns from none (R240, R245); `raisePollTimeout` is its one error action, of
the bounded variant (R246). -/

namespace Sys2Proof.Machine

/-! ## Outcomes -/

/-- Runs `f` on a next state; a fault or refusal stays. -/
def andThen (o : Host.Outcome State Fault Refusal) (f : State → Host.Outcome State Fault Refusal) :
    Host.Outcome State Fault Refusal :=
  match o with
  | .next s => f s
  | .fault r => .fault r
  | .refused r => .refused r

/-! ## The environment -/

/-- Whether a busy chip takes its "finished" step now (R214). -/
def State.finishes (s : State) : Bool :=
  match s.pace with
  | .free => Config.freeFinish s.draw
  | .prompt => true
  | .every n => decide (s.draw % (n + 1) = 0)
  | .never => false

/-- The environment's part of a step, before the block's: the chip may finish, and the free values are drawn afresh
(R214, R275). -/
def State.tick (s : State) : State :=
  { s with
    chip := { s.chip with wip := s.chip.wip && !s.finishes }
    draw := s.draw + 1 }

/-- A chip of which the spec says nothing: array, latch and busy bit are free values (R210; log 7). -/
def Chip.undetermined (p : Params) (draw : Nat) : Chip where
  mem := Mem.ofCells p.capacity (Config.freeCells draw)
  wel := Config.freeLatch draw
  wip := Config.freeBusy draw

/-- The chip reacts to a frame: as given where the transport is not unfaithful and the spec gives a reaction, else with any
state (R210, R223). -/
def State.react (s : State) (reaction : Option Chip) : Chip :=
  if s.transport = .unfaithful then Chip.undetermined s.params s.draw
  else reaction.getD (Chip.undetermined s.params s.draw)

/-! ## Bus events -/

/-- `e` is seen. -/
def State.observe (s : State) (e : Event) : State := { s with events := s.events ++ [e] }

/-- The sequencer goes to `q` (R9). -/
def State.goTo (q : Seq) (s : State) : State := { s with seq := q }

/-- `BusSelect()` (R9, R31): a new frame is open. -/
def State.select (s : State) : State :=
  { s with btSelect := true, frame := [], events := s.events ++ [.sel] }

/-- `BusDeselect()` (R9, R31): the frame is closed. -/
def State.deselect (s : State) : State :=
  { s with btSelect := false, frame := [], events := s.events ++ [.des] }

/-- The bytes sent in the open frame. -/
def State.sent (s : State) : List Byte := s.frame.map (·.tx)

/-- A transfer is started and not completed: the byte stays on `bt_tx` (R196; log 19). -/
def State.hold (s : State) (t : Byte) : State := { s with outstanding := some t }

/-- A transfer of `t` is complete (R196). -/
def State.exchange (s : State) (t : Byte) (rx : Option Byte) : State :=
  { s with
    outstanding := none
    frame := s.frame ++ [{ tx := t, rx := rx }]
    events := s.events ++ [.xfer t rx] }

/-- What an idle or busy chip answers in the next position of the open frame: the status byte of RDSR (R213), data byte `k` of
READ (R216), else anything (R92; log 8). -/
def chipAnswer (s : State) : List Byte → Byte
  | [opc] => if opc = opcRDSR then statusByte s.chip.wip s.draw else Config.freeByte s.draw
  | opc :: b2 :: b1 :: b0 :: data =>
    if opc = opcREAD ∧ s.chip.wip = false ∧ (addrOfBytes b2 b1 b0).toNat + data.length < s.params.capacity then
      s.chip.mem.read ((addrOfBytes b2 b1 b0).toNat + data.length)
    else Config.freeByte s.draw
  | _ => Config.freeByte s.draw

/-- The byte the block receives in the next exchange (R223). -/
def State.received (s : State) : Byte :=
  if s.transport = .unfaithful then Config.freeByte s.draw else chipAnswer s s.sent

/-- `BusXfer(t)` with the received byte discarded, then `after`; a stalled transport leaves the transfer outstanding (R196). -/
def transferOut (t : Byte) (after : State → State) (s : State) : State :=
  if s.transport = .stalled then s.hold t else after (s.exchange t none)

/-- `r <- BusXfer(DUMMY_TX)`, then `after r` (R93, R196). -/
def transferIn (after : Byte → State → State) (s : State) : State :=
  if s.transport = .stalled then s.hold s.params.dummyTx
  else after s.received (s.exchange s.params.dummyTx (some s.received))

/-- `RDataPush(b)` (R30). -/
def State.push (s : State) (b : Byte) : State := s.observe (.pushed b)

/-- One data byte of a READ or WRITE is counted (R152, R163); the 24-bit registers wrap. -/
def State.countByte (s : State) : State :=
  { s with curAddr := s.curAddr + 1#24, remaining := s.remaining - 1#24 }

/-- One data byte of the chunk is counted (R163). -/
def State.countChunk (s : State) : State := { s with chunk := s.chunk - 1#9 }

/-! ## Requests -/

/-- Acceptance loads the three fields whatever the request (R22, R192). -/
def State.load (s : State) (c : Code) (a : Addr) (n : Len) : State :=
  { s with op := c, curAddr := a, remaining := n }

/-- `Poll()` is entered, from IDLE or from C_DES: the poll count starts at 0 (R134, R246). -/
def State.enterPoll (s : State) : State := { s with pollCnt := 0, seq := .pSel }

/-- Where IDLE leads once the request is loaded (R191): a zero-length WRITE and a reserved code complete at once, every other
request polls. -/
def State.leaveIdle (s : State) : State :=
  if s.op = codeWrite ∧ s.remaining = 0#24 ∧ s.params.zeroLenWriteEmitsFrame = false then s.goTo .fin
  else if 6 ≤ s.op.toNat then s.goTo .fin
  else s.enterPoll

/-- A request at the port: it waits there while the block is busy (R28), is refused outside the contract under that reading
(R56), else accepted (R192). -/
def request (c : Code) (a : Addr) (n : Len) (inContract : Bool) (s : State) : Host.Outcome State Fault Refusal :=
  if s.seq = .idle then
    if inContract = false ∧ s.params.outOfContract = .refuse then .refused .outOfContract
    else .next (s.load c a n).leaveIdle
  else .next s

/-- A request word with code 6 or 7 at the port of an idle block: refused (R89), or completed at once under the reading
`literal` (R201, U1). -/
def acceptReserved (w : ReqWord) (s : State) : Host.Outcome State Fault Refusal :=
  match s.params.outOfContract with
  | .refuse => .refused .reservedRequest
  | .literal => .next (s.load (reqCode w) (reqAddr w) (reqLen w)).leaveIdle

/-! ## Frames -/

/-- A frame whose bytes have all been exchanged is closed: the chip takes its action and the select line is released
(R110, R212). -/
def State.closeFrame (s : State) (reaction : Option Chip) : State :=
  State.deselect { s with chip := s.react reaction }

/-- `sr_shadow <- s` of RDSR, `s` being the byte received in position 1 of the frame (R111; log 13). -/
def State.latchStatus (s : State) : State :=
  match s.frame with
  | [_, { tx := _, rx := some st }] => { s with srShadow := st }
  | _ => s

/-! ## Poll timeout and reset -/

/-- `raise PollTimeout` of the bounded variant (R246). -/
def State.raisePollTimeout (s : State) : State := { s with timeoutErr := true, seq := .fin }

/-- The chip when reset drops the select line (R262). Without an open frame it is untouched. A cut frame may do anything to an idle
chip (U6). In a busy one the command already started goes on: cells and busy bit stay, the latch may be anything (log 18). -/
def State.cutFrame (s : State) : Chip :=
  if s.btSelect then
    if s.chip.wip then { s.chip with wel := Config.freeLatch s.draw } else Chip.undetermined s.params s.draw
  else s.chip

/-- A clock edge with `rst` = 1 (R260, R262; log 18): the registers take their reset values, the unspecified ones any value;
an open frame is cut. -/
def State.resetBlock (s : State) : State :=
  { s with
    seq := .idle
    op := Config.freeOp s.draw
    curAddr := Config.freeAddr s.draw
    remaining := Config.freeRemaining s.draw
    chunk := Config.freeChunk s.draw
    srShadow := Config.freeShadow s.draw
    btSelect := false
    pollCnt := 0
    timeoutErr := false
    outstanding := none
    frame := []
    chip := s.cutFrame
    events := if s.btSelect then s.events ++ [.des] else s.events }

end Sys2Proof.Machine
end

