-- ==== Sys2Proof/Machine/Frames.lean ====
section
/-! DEFINITION. The six bus command frames, each executed when DES closes it (R212). The bytes were exchanged one a step by the
rows of `Machine/Sequencer.lean`; where the sequencer goes next is added by `step` (log 12). -/

namespace Sys2Proof.Machine

/-- RDSR (R111, R213): the status byte is in `sr_shadow`; the chip is unchanged. -/
def execRdsr (s : State) : Host.Outcome State Fault Refusal :=
  .next (s.latchStatus.closeFrame s.chip.onRdsr)

/-- WREN (R112, R215): the latch is set. -/
def execWren (s : State) : Host.Outcome State Fault Refusal :=
  .next (s.closeFrame s.chip.onWren)

/-- READ (R113, R216): the data were pushed as they arrived; the chip is unchanged. -/
def execReadData (a : Addr) (n : Nat) (s : State) : Host.Outcome State Fault Refusal :=
  .next (s.closeFrame (s.chip.onRead s.params a n))

/-- PP (R114, R217): the bytes are programmed, the chip is busy, the latch is used up. -/
def execPp (a : Addr) (d : List Byte) (s : State) : Host.Outcome State Fault Refusal :=
  .next (s.closeFrame (s.chip.onPP s.params a d))

/-- SE (R115, R218): the sector is erased, the chip is busy, the latch is used up. -/
def execSe (a : Addr) (s : State) : Host.Outcome State Fault Refusal :=
  .next (s.closeFrame (s.chip.onSE s.params a))

/-- BE (R116, R219): the array is erased, the chip is busy, the latch is used up. -/
def execBe (s : State) : Host.Outcome State Fault Refusal :=
  .next (s.closeFrame s.chip.onBE)

end Sys2Proof.Machine
end

