-- ==== Sys2Proof/Machine/Requests.lean ====
section
/-! DEFINITION. The six client requests. A request is executed by accepting it in IDLE (R191, R192); the rows of
`Machine/Sequencer.lean` and the frames of `Machine/Frames.lean` carry it out, one row a step. -/

namespace Sys2Proof.Machine

/-- READ (R150). -/
def execReadReq (a : Addr) (n : Len) (s : State) : Host.Outcome State Fault Refusal :=
  request codeRead a n (rangeInContract s.params a n.toNat) s

/-- WRITE (R160, R166). -/
def execWriteReq (a : Addr) (n : Len) (s : State) : Host.Outcome State Fault Refusal :=
  request codeWrite a n (rangeInContract s.params a n.toNat) s

/-- ERASE_SECTOR (R180). -/
def execEraseSectorReq (a : Addr) (n : Len) (s : State) : Host.Outcome State Fault Refusal :=
  request codeEraseSector a n (addrInContract s.params a) s

/-- ERASE_ALL (R181). -/
def execEraseAllReq (a : Addr) (n : Len) (s : State) : Host.Outcome State Fault Refusal :=
  request codeEraseAll a n true s

/-- WAIT (R130). -/
def execWaitReq (a : Addr) (n : Len) (s : State) : Host.Outcome State Fault Refusal :=
  request codeWait a n true s

/-- ENABLE_WRITE (R140). -/
def execEnableWriteReq (a : Addr) (n : Len) (s : State) : Host.Outcome State Fault Refusal :=
  request codeEnableWrite a n true s

end Sys2Proof.Machine
end

