-- ==== Sys2Proof/Machine/Dispatch.lean ====
section
/-! DEFINITION. One arm per instruction. -/

namespace Sys2Proof.Machine

def exec (i : Instr) (s : State) : Host.Outcome State Fault Refusal :=
  match i with
  | .pp a d => Sys2Proof.Machine.execPp a d s
  | .readData a n => Sys2Proof.Machine.execReadData a n s
  | .rdsr => Sys2Proof.Machine.execRdsr s
  | .wren => Sys2Proof.Machine.execWren s
  | .be => Sys2Proof.Machine.execBe s
  | .se a => Sys2Proof.Machine.execSe a s
  | .readReq a n => Sys2Proof.Machine.execReadReq a n s
  | .writeReq a n => Sys2Proof.Machine.execWriteReq a n s
  | .eraseSectorReq a n => Sys2Proof.Machine.execEraseSectorReq a n s
  | .eraseAllReq a n => Sys2Proof.Machine.execEraseAllReq a n s
  | .waitReq a n => Sys2Proof.Machine.execWaitReq a n s
  | .enableWriteReq a n => Sys2Proof.Machine.execEnableWriteReq a n s

end Sys2Proof.Machine
end

