-- ==== Sys2Proof/Machine/Sequencer.lean ====
section
/-! DEFINITION. The transition table R191, row by row. IDLE's acceptance is the requests' meaning; in P_DES, W_DES and C_DES the
frame's meaning releases the select line and `afterInstr` is the rest of the row. -/

namespace Sys2Proof.Machine

/-- `opc(op)` (R194); no other code reaches C_OP. -/
def opcodeOf (c : Code) : Option Byte :=
  if c = codeRead then some opcREAD
  else if c = codeWrite then some opcPP
  else if c = codeEraseSector then some opcSE
  else if c = codeEraseAll then some opcBE
  else none

/-- P_SEL -/
def rowPSel (s : State) : State := s.select.goTo .pCmd

/-- P_CMD -/
def rowPCmd (s : State) : State := transferOut opcRDSR (State.goTo .pSta) s

/-- P_STA, counting the poll in the bounded variant (R246) -/
def rowPSta (s : State) : State :=
  transferIn (fun r u => { u with
    srShadow := r
    pollCnt := if u.params.pollLimit.isSome then u.pollCnt + 1 else u.pollCnt
    seq := .pDes }) s

/-- W_SEL -/
def rowWSel (s : State) : State := s.select.goTo .wCmd

/-- W_CMD -/
def rowWCmd (s : State) : State := transferOut opcWREN (State.goTo .wDes) s

/-- C_SEL -/
def rowCSel (s : State) : State := s.select.goTo .cOp

/-- C_OP -/
def rowCOp (s : State) : Host.Outcome State Fault Refusal :=
  match opcodeOf s.op with
  | some opc => .next (transferOut opc (State.goTo (if s.op = codeEraseAll then .cDes else .cA2)) s)
  | none => .fault .noTransition

/-- C_A2 -/
def rowCA2 (s : State) : State := transferOut (addrByte2 s.curAddr) (State.goTo .cA1) s

/-- C_A1 -/
def rowCA1 (s : State) : State := transferOut (addrByte1 s.curAddr) (State.goTo .cA0) s

/-- Where C_A0 leads: to the data, if there are any. -/
def afterHeader (s : State) : Option Seq :=
  if s.op = codeEraseSector then some .cDes
  else if s.op = codeRead then some (if s.remaining = 0#24 then .cDes else .cRd)
  else if s.op = codeWrite then some (if s.chunk = 0#9 then .cDes else .cWr)
  else none

/-- C_A0 -/
def rowCA0 (s : State) : Host.Outcome State Fault Refusal :=
  match afterHeader s with
  | some q => .next (transferOut (addrByte0 s.curAddr) (State.goTo q) s)
  | none => .fault .noTransition

/-- C_RD: one data byte in (R151, R152) -/
def rowCRd (s : State) : State :=
  transferIn (fun b u =>
    let v := (u.push b).countByte
    v.goTo (if v.remaining = 0#24 then .cDes else .cRd)) s

/-- The data byte `d` goes out and is counted (R163). -/
def sendData (d : Byte) (s : State) : State :=
  transferOut d (fun u =>
    let v := u.countByte.countChunk
    v.goTo (if v.chunk = 0#9 then .cDes else .cWr)) s

/-- C_WR: the client's byte is taken, unless this step has taken it already, and sent; without a byte the block waits
(R29, R163, R193). -/
def rowCWr (s : State) : State :=
  match s.outstanding with
  | some d => sendData d s
  | none =>
    match s.wdata with
    | [] => s
    | d :: rest => sendData d (State.observe { s with wdata := rest } (.taken d))

/-- FIN: `Done()` (R197) -/
def rowFin (s : State) : State := (s.observe .done).goTo .idle

/-- Where P_DES leads: the poll is repeated while bit 0 is 1 (R131), up to the limit of the bounded variant (R246); else by
`op`. -/
def afterPDes (s : State) : Host.Outcome State Fault Refusal :=
  if s.wipSeen then
    if s.params.pollLimit = some s.pollCnt then .next s.raisePollTimeout else .next (s.goTo .pSel)
  else if s.op = codeWait then .next (s.goTo .fin)
  else if s.op = codeRead then .next (s.goTo .cSel)
  else if s.op.toNat ≤ 5 then .next (s.goTo .wSel)
  else .fault .noTransition

/-- W_DES loads the chunk of a WRITE (R145, R161). -/
def State.loadChunk (s : State) : State :=
  if s.op = codeWrite then { s with chunk := BitVec.ofNat 9 (chunkSize s.curAddr s.remaining) } else s

/-- Where W_DES leads -/
def afterWDes (s : State) : State := s.loadChunk.goTo (if s.op = codeEnableWrite then .fin else .cSel)

/-- Where C_DES leads: a WRITE with data left polls for its next chunk (R170). -/
def afterCDes (s : State) : State :=
  if s.op = codeWrite ∧ s.remaining ≠ 0#24 then s.enterPoll else s.goTo .fin

/-- What the sequencer adds to an executed instruction: the rest of the row of P_DES, W_DES or C_DES. -/
def afterInstr (s : State) : Host.Outcome State Fault Refusal :=
  match s.seq with
  | .pDes => afterPDes s
  | .wDes => .next (afterWDes s)
  | .cDes => .next (afterCDes s)
  | _ => .next s

/-- The rows at which no instruction is executed. -/
def stepRow (s : State) : Host.Outcome State Fault Refusal :=
  match s.seq with
  | .pSel => .next (rowPSel s)
  | .pCmd => .next (rowPCmd s)
  | .pSta => .next (rowPSta s)
  | .wSel => .next (rowWSel s)
  | .wCmd => .next (rowWCmd s)
  | .cSel => .next (rowCSel s)
  | .cOp => rowCOp s
  | .cA2 => .next (rowCA2 s)
  | .cA1 => .next (rowCA1 s)
  | .cA0 => rowCA0 s
  | .cRd => .next (rowCRd s)
  | .cWr => .next (rowCWr s)
  | .fin => .next (rowFin s)
  | .idle => .next s
  | .pDes => .next s
  | .wDes => .next s
  | .cDes => .next s

/-- What a step finds to do. -/
inductive Fetched where
  | nothing                          -- IDLE and no request offered (R190)
  | row                              -- a row at which no instruction is executed
  | instr (i : Instr) (s : State)    -- a request at the port, or a frame whose bytes are all exchanged
  | reserved (w : ReqWord) (s : State)
  | unreadable (s : State)           -- a frame to be closed that is none of the six
  deriving DecidableEq, Repr

/-- The request port in IDLE (R192), the chip's view of the frame where one is closed (R212). -/
def State.fetch (s : State) : Fetched :=
  match s.seq with
  | .idle =>
    match s.requests with
    | [] => .nothing
    | w :: rest =>
      match decode (.request w) with
      | .ok i => .instr i { s with requests := rest }
      | .error _ => .reserved w { s with requests := rest }
  | .pDes | .wDes | .cDes =>
    match decode (.frame s.sent) with
    | .ok i => .instr i s
    | .error _ => .unreadable s
  | _ => .row

end Sys2Proof.Machine
end

