-- ==== Sys2Proof/Machine/Cycle.lean ====
section
/-! DEFINITION. What one step does: fetch, execute, the rest of the row, or reset. -/

namespace Sys2Proof.Machine

/-- The block's part of a step, on the state after the environment's. -/
def stepBlock (s : State) : Host.Outcome State Fault Refusal :=
  match s.fetch with
  | .nothing => .next s
  | .row => stepRow s
  | .instr i u => andThen (exec i u) afterInstr
  | .reserved w u => acceptReserved w u
  | .unreadable u => afterInstr (u.closeFrame none)

/-- The environment's move, then one row of the transition table (R195); reset overrides every transition (R260). -/
def cycle (s : State) : Host.Outcome State Fault Refusal :=
  if s.tick.rst then .next s.tick.resetBlock else stepBlock s.tick

/-- The sequencer state in which a frame with this opcode is closed (R110). -/
def closingState (opc : Byte) : Seq :=
  if opc = opcRDSR then .pDes else if opc = opcWREN then .wDes else .cDes

/-- The exchanges of a frame with these bytes; a status byte is one the block uses. -/
def exchanged (bytes : List Byte) : List Exchange :=
  bytes.map fun b => { tx := b, rx := if bytes.head? = some opcRDSR then some b else none }

end Sys2Proof.Machine
end

