-- ==== Sys2Proof/Machine/Ports.lean ====
section
/-! DEFINITION. The output ports as functions of the state (R27, R193), and what an observer reads off the event log (R279). The
ports that pulse inside a step (`bt_start`, `rdata_valid`) are functions of the state the step starts from (log 30). -/

namespace Sys2Proof.Machine

/-- `req_ready`: 1 in IDLE; to be taken as 0 while `rst` is 1 (R193, R260). -/
def State.reqReady (s : State) : Bool := decide (s.seq = .idle) && !s.rst

/-- `busy` (R32, R193) -/
def State.busy (s : State) : Bool := decide (s.seq ≠ .idle)

/-- `done`: 1 in FIN (R32, R193). DESIGN CHOICE: 0 there while `rst` is 1, since an abandoned request raises no `done` (R262;
log 18). -/
def State.done (s : State) : Bool := decide (s.seq = .fin) && !s.rst

/-- `wdata_ready`: in C_WR until the byte of this step is taken (R193). DESIGN CHOICE: 0 while `rst` is 1, when no byte is taken
(R27, R262; log 18). -/
def State.wdataReady (s : State) : Bool := decide (s.seq = .cWr) && s.outstanding.isNone && !s.rst

/-- The states in which `bt_select` is 1 (R193) -/
def Seq.selected : Seq → Bool
  | .pCmd | .pSta | .pDes | .wCmd | .wDes | .cOp | .cA2 | .cA1 | .cA0 | .cRd | .cWr | .cDes => true
  | .idle | .fin | .pSel | .wSel | .cSel => false

/-- The states that transfer a byte (R196) -/
def Seq.transfers : Seq → Bool
  | .pCmd | .pSta | .wCmd | .cOp | .cA2 | .cA1 | .cA0 | .cRd | .cWr => true
  | .idle | .fin | .pSel | .wSel | .cSel | .pDes | .wDes | .cDes => false

/-- `bt_tx`: the byte this state transfers, once the block has it (R196) -/
def State.btTx (s : State) : Option Byte :=
  match s.seq with
  | .pCmd => some opcRDSR
  | .pSta => some s.params.dummyTx
  | .wCmd => some opcWREN
  | .cOp => opcodeOf s.op
  | .cA2 => some (addrByte2 s.curAddr)
  | .cA1 => some (addrByte1 s.curAddr)
  | .cA0 => some (addrByte0 s.curAddr)
  | .cRd => some s.params.dummyTx
  | .cWr => s.outstanding.or s.wdata.head?
  | .idle | .fin | .pSel | .wSel | .cSel | .pDes | .wDes | .cDes => none

/-- `bt_start`: the step out of this state pulses it, unless the transfer is already under way (R196) or `rst` is 1 (R260). -/
def State.btStart (s : State) : Bool := s.btTx.isSome && s.outstanding.isNone && !s.rst

/-- `rdata_valid`: the step out of this state is a C_RD step in which the received byte is pushed (R30, R193). -/
def State.rdataValid (s : State) : Bool := decide (s.seq = .cRd) && decide (s.transport ≠ .stalled) && !s.rst

/-- `rdata` while `rdata_valid` is 1 (R30): the byte received in the step out of this state -/
def State.rdata (s : State) : Byte := s.tick.received

/-- Whether an event is one of the bus alphabet (R10) -/
def Event.isBus : Event → Bool
  | .sel | .xfer _ _ | .des => true
  | .taken _ | .pushed _ | .done => false

/-- The trace of bus events (R10, R279) -/
def State.trace (s : State) : List Event := s.events.filter Event.isBus

/-- The bytes delivered on the read-data stream (R30) -/
def State.readData (s : State) : List Byte := s.events.filterMap fun
  | .pushed b => some b
  | _ => none

/-- The bytes taken from the write-data stream (R29) -/
def State.dataTaken (s : State) : List Byte := s.events.filterMap fun
  | .taken b => some b
  | _ => none

/-- How many requests have completed (R32) -/
def State.completions (s : State) : Nat := (s.events.filter fun e => decide (e = .done)).length

end Sys2Proof.Machine
end

