-- ==== Sys2Proof/Machine/Step.lean ====
section
/-! DEFINITION. One step of block and environment, and an instruction placed where it is fetched. -/

namespace Sys2Proof.Machine

/-- One step. -/
def step (s : State) : Host.Outcome State Fault Refusal := cycle s

/-- `s` with the instruction of these bits where the next step fetches: a request word at the head of the port of an idle
block, or a frame whose bytes have all been exchanged, about to be closed (log 17). -/
def State.withFetchWord (s : State) (nbits w : Nat) : State :=
  match tableEncoded nbits w with
  | .request word => { s with rst := false, seq := .idle, requests := word :: s.requests }
  | .frame bytes =>
    { s with rst := false, seq := closingState (BitVec.ofNat 8 w), btSelect := true, frame := exchanged bytes }

end Sys2Proof.Machine
end

