-- ==== Sys2Proof/WellFormed.lean ====
section
/-! DEFINITION. Which instructions are within what the spec gives a meaning: frames the block may send in contract (R82, R85)
and requests in contract (R56). -/

namespace Sys2Proof

/-- The checks of R54, R56 and R85, one per instruction. -/
def Instr.wellFormed (p : Params) : Instr → Bool
  | .pp a d => Machine.fitsPage a d.length && Machine.rangeInContract p a d.length
  | .readData a n => Machine.rangeInContract p a n
  | .rdsr => true
  | .wren => true
  | .be => true
  | .se a => Machine.addrInContract p a
  | .readReq a n => Machine.rangeInContract p a n.toNat
  | .writeReq a n => Machine.rangeInContract p a n.toNat
  | .eraseSectorReq a _ => Machine.addrInContract p a
  | .eraseAllReq _ _ => true
  | .waitReq _ _ => true
  | .enableWriteReq _ _ => true

end Sys2Proof
end

