-- ==== Sys2Proof/Safety.lean ====
section
/-! DEFINITION. What counts as a safe run, in the terms claims use: runs and their end (R277), the named premises (R278), requests in
progress, the invariants of the sequencer (R199), of the chip (R63, R136) and of the operand contract (R56). -/

namespace Sys2Proof.Machine

/-- The machine after `k` steps. -/
def runSteps (k : Nat) (s : State) : Host.Outcome State Fault Refusal :=
  match k with
  | 0 => .next s
  | n + 1 => andThen (step s) (runSteps n)

/-- The states of the status-poll FSM (R21). -/
def Seq.polling : Seq → Bool
  | .pSel | .pCmd | .pSta | .pDes => true
  | _ => false

/-- The states of the write-enable frame (R21). -/
def Seq.enabling : Seq → Bool
  | .wSel | .wCmd | .wDes => true
  | _ => false

/-- The states of the command frame (R21). -/
def Seq.commanding : Seq → Bool
  | .cSel | .cOp | .cA2 | .cA1 | .cA0 | .cRd | .cWr | .cDes => true
  | _ => false

/-- A WRITE in progress has data left, unless the parameter lets it send an empty frame (R166). -/
def State.hasData (s : State) : Prop := s.remaining ≠ 0#24 ∨ s.params.zeroLenWriteEmitsFrame = true

/-- Which requests a state of the sequencer can be carrying out (R198). -/
def State.OpOk (s : State) : Prop :=
  match s.seq with
  | .idle | .fin => True
  | .pSel | .pCmd | .pSta | .pDes => s.op.toNat ≤ 5
  | .wSel | .wCmd | .wDes => s.op ≠ codeRead ∧ s.op ≠ codeWait ∧ s.op.toNat ≤ 5
  | .cSel | .cOp | .cDes => s.op.toNat ≤ 3
  | .cA2 | .cA1 | .cA0 => s.op.toNat ≤ 2
  | .cRd => s.op = codeRead
  | .cWr => s.op = codeWrite

/-- The counters (R199 (c), (d)). -/
def State.CountOk (s : State) : Prop :=
  match s.seq with
  | .idle | .fin => True
  | .pSel | .pCmd | .pSta | .pDes | .wSel | .wCmd | .wDes => s.op = codeWrite → s.hasData
  | .cSel | .cOp | .cA2 | .cA1 | .cA0 =>
    s.op = codeWrite → s.hasData ∧ s.chunk.toNat = chunkSize s.curAddr s.remaining
  | .cRd => s.remaining ≠ 0#24
  | .cWr =>
    1 ≤ s.chunk.toNat ∧ s.chunk.toNat ≤ s.remaining.toNat ∧ pageOffset s.curAddr + s.chunk.toNat ≤ pageSize
  | .cDes => (s.op = codeRead → s.remaining = 0#24) ∧ (s.op = codeWrite → s.chunk = 0#9)

/-- A page-program frame with data `d` so far, started at `a`: it stays in its page, and in the array where requests outside
the contract are refused (R54, R161, R165 (a)). -/
def State.ProgramFrame (s : State) (a : Addr) (d : List Byte) : Prop :=
  s.sent = header opcPP a ++ d ∧ s.curAddr = a + BitVec.ofNat 24 d.length ∧
    pageOffset a + d.length + s.chunk.toNat ≤ pageSize ∧
    (s.params.outOfContract = .refuse → a.toNat < s.params.capacity ∧ a.toNat + d.length + s.remaining.toNat ≤ s.params.capacity)

/-- A read-data frame with `k` bytes read so far, started at `a` (R113). -/
def State.ReadFrame (s : State) (a : Addr) (k : Nat) : Prop :=
  s.sent = header opcREAD a ++ List.replicate k s.params.dummyTx ∧ s.curAddr = a + BitVec.ofNat 24 k ∧
    (s.params.outOfContract = .refuse → a.toNat < s.params.capacity ∧ a.toNat + k + s.remaining.toNat ≤ s.params.capacity)

/-- The bytes of the open frame are a beginning of the one frame the request sends here; all of it where it is closed
(R82, R90, R110). -/
def State.FrameOk (s : State) : Prop :=
  match s.seq with
  | .idle | .fin | .pSel | .wSel | .cSel | .pCmd | .wCmd | .cOp => s.frame = []
  | .pSta => s.frame = [{ tx := opcRDSR, rx := none }]
  | .pDes => s.frame = [{ tx := opcRDSR, rx := none }, { tx := s.params.dummyTx, rx := some s.srShadow }]
  | .wDes => s.sent = [opcWREN]
  | .cA2 => ∃ opc, opcodeOf s.op = some opc ∧ s.sent = [opc]
  | .cA1 => ∃ opc, opcodeOf s.op = some opc ∧ s.sent = [opc, addrByte2 s.curAddr]
  | .cA0 => ∃ opc, opcodeOf s.op = some opc ∧ s.sent = [opc, addrByte2 s.curAddr, addrByte1 s.curAddr]
  | .cRd => ∃ a k, s.ReadFrame a k
  | .cWr => ∃ a d, s.ProgramFrame a d
  | .cDes =>
    (s.op = codeRead → ∃ a k, s.ReadFrame a k) ∧
    (s.op = codeWrite → ∃ a d, s.ProgramFrame a d ∧ (d ≠ [] ∨ s.params.zeroLenWriteEmitsFrame = true)) ∧
    (s.op = codeEraseSector → s.sent = header opcSE s.curAddr) ∧
    (s.op = codeEraseAll → s.sent = [opcBE])

/-- The operands of the request in progress are in contract, where requests outside it are refused (R23, R56). -/
def State.ContractOk (s : State) : Prop :=
  s.params.outOfContract = .refuse → s.seq ≠ .idle → s.seq ≠ .fin →
    ((s.op = codeRead ∨ s.op = codeWrite) → s.curAddr.toNat + s.remaining.toNat ≤ s.params.capacity) ∧
    ((s.op = codeRead ∨ s.op = codeWrite) → s.seq.polling ∨ s.seq.enabling ∨ s.seq = .cSel ∨ s.seq = .cOp ∨ s.seq = .cA2 ∨
      s.seq = .cA1 ∨ s.seq = .cA0 → s.curAddr.toNat < s.params.capacity) ∧
    (s.op = codeEraseSector → s.curAddr.toNat < s.params.capacity)

/-- What every step keeps, whatever the client, the transport and the chip do. -/
structure State.Inv (s : State) : Prop where
  /-- the array is in canonical form -/
  memory : Mem.wf s.params.capacity s.chip.mem = true
  /-- `bt_select` is the function of `seq` that R193 gives -/
  select : s.btSelect = s.seq.selected
  /-- a transfer is outstanding only in a state that transfers a byte (R196) -/
  transfer : s.outstanding ≠ none → s.seq.transfers = true
  /-- R198 -/
  op : s.OpOk
  /-- R199 (c), (d) -/
  count : s.CountOk
  /-- R82, R90 -/
  frame : s.FrameOk
  /-- past the poll the last status byte had bit 0 = 0 (R199 (e)) -/
  status : s.seq.enabling = true ∨ s.seq.commanding = true → s.wipSeen = false
  /-- without a limit the registers of the bounded variant stay at 0 (R246) -/
  poll : s.params.pollLimit = none → s.pollCnt = 0 ∧ s.timeoutErr = false
  /-- R56 -/
  contract : s.ContractOk

/-- The chip is idle where the block sends it anything but RDSR, and its latch is set where a program or erase is sent, as long
as the transport delivers what is sent (R63, R136, R143). -/
def State.ChipQuiet (s : State) : Prop :=
  s.transport ≠ .unfaithful →
    ((s.seq = .pDes ∧ s.wipSeen = false) ∨ s.seq.enabling = true ∨ s.seq.commanding = true → s.chip.wip = false) ∧
    (s.seq.commanding = true → s.op ≠ codeRead → s.chip.wel = true)

/-! ## The split as a list -/

/-- The chunks of a write of `n` bytes at `a`, the loop of R160 with the machine's own chunk size and `fuel` rounds at most. -/
def splitWrite (fuel : Nat) (a : Addr) (n : Len) : List (Addr × Nat) :=
  match fuel with
  | 0 => []
  | f + 1 =>
    if n = 0#24 then []
    else (a, chunkSize a n) ::
      splitWrite f (a + BitVec.ofNat 24 (chunkSize a n)) (n - BitVec.ofNat 24 (chunkSize a n))

/-! ## Frames read off the event log -/

/-- The bytes sent up to the next SEL or DES. -/
def bytesToClose : List Event → List Byte
  | [] => []
  | .xfer t _ :: rest => t :: bytesToClose rest
  | .sel :: _ => []
  | .des :: _ => []
  | .taken _ :: rest => bytesToClose rest
  | .pushed _ :: rest => bytesToClose rest
  | .done :: rest => bytesToClose rest

/-- The frames of a log, each as the bytes sent after its SEL (R10). -/
def framesOf : List Event → List (List Byte)
  | [] => []
  | .sel :: rest => bytesToClose rest :: framesOf rest
  | .xfer _ _ :: rest => framesOf rest
  | .des :: rest => framesOf rest
  | .taken _ :: rest => framesOf rest
  | .pushed _ :: rest => framesOf rest
  | .done :: rest => framesOf rest

/-- The frames of a WRITE of `data` in these chunks: before each, as many polls that read busy as `ks` says and one that read idle
(R163, R165). -/
def writeFrames (dummy : Byte) (ks : List Nat) (chunks : List (Addr × Nat)) (data : List Byte) : List (List Byte) :=
  match chunks with
  | [] => []
  | (a, n) :: rest =>
    List.replicate (ks.headD 0 + 1) [opcRDSR, dummy] ++
      [opcWREN] :: (header opcPP a ++ data.take n) :: writeFrames dummy ks.tail rest (data.drop n)

/-! ## Programs, their end, and the premises a claim names -/

/-- How many bytes of write data the requests of a program take (R163). -/
def writeLength : List ReqWord → Nat
  | [] => 0
  | w :: rest => (if reqCode w = codeWrite then (reqLen w).toNat else 0) + writeLength rest

/-- How many bytes of read data they deliver (R30). -/
def readLength : List ReqWord → Nat
  | [] => 0
  | w :: rest => (if reqCode w = codeRead then (reqLen w).toNat else 0) + readLength rest

/-- The run of `program` begun in `s` has ended for the block in `t` (R277). -/
structure Ended (program : List ReqWord) (s t : State) : Prop where
  accepted : s.requests = program ++ t.requests
  finished : t.completions = s.completions + program.length
  idle : t.seq = .idle
  released : t.btSelect = false
  taken : t.dataTaken.length = s.dataTaken.length + writeLength program
  delivered : t.readData.length = s.readData.length + readLength program

/-- The run has ended for the block and the chip: no command is pending (R277). -/
def EndedWithChip (program : List ReqWord) (s t : State) : Prop := Ended program s t ∧ t.chip.wip = false

/-! The premises of R278. SingleMaster, BusyOnlyByCommand and ChipModel are built into the step: no other agent has a move
(log 31). -/

/-- `ResetStart`: the registers as reset leaves them, the chip any, and no further reset, since no step changes `rst` (R37, R262). -/
structure State.ResetStart (s : State) : Prop where
  idle : s.seq = .idle
  released : s.btSelect = false
  pollCnt : s.pollCnt = 0
  timeoutErr : s.timeoutErr = false
  outstanding : s.outstanding = none
  frame : s.frame = []
  rst : s.rst = false

/-- A request word with a code 0 to 5 and operands within R56. -/
def wordInContract (p : Params) (w : ReqWord) : Bool :=
  match decode (.request w) with
  | .ok i => i.wellFormed p
  | .error _ => false

/-- `InContract` -/
abbrev InContract (p : Params) (program : List ReqWord) : Prop := program.all (wordInContract p) = true

/-- `TransportLive`: every byte transfer completes (R202 (a)). -/
abbrev State.TransportLive (s : State) : Prop := s.transport ≠ .stalled

/-- `TransportFaithful`: bytes arrive unchanged in both directions (R223). -/
abbrev State.TransportFaithful (s : State) : Prop := s.transport ≠ .unfaithful

/-- `DataSupplied`: the client has the write data of the program at the port (R202 (b)). -/
abbrev State.DataSupplied (program : List ReqWord) (s : State) : Prop := writeLength program ≤ s.wdata.length

/-- `ChipFinishes`: from any moment on, the "finished" step comes (R214). It says nothing of when. -/
def State.ChipFinishes (s : State) : Prop := ∀ n, ∃ k, n ≤ k ∧ ({ s with draw := k } : State).finishes = true

/-- `Erased`: the `n` cells from `a` on hold 0xFF (R265). -/
def Erased (m : Mem) (a n : Nat) : Prop := ∀ k, k < n → m.read (a + k) = 0xFF#8

/-- The request starts a command in the chip. -/
def startsCommand (w : ReqWord) : Bool :=
  decide (reqCode w = codeWrite) || decide (reqCode w = codeEraseSector) || decide (reqCode w = codeEraseAll)

/-- `WaitAfterWrite`: a WAIT directly after each WRITE and erase (R267). -/
def waitAfterWrite : List ReqWord → Bool
  | [] => true
  | w :: rest => (!startsCommand w || decide (rest.head?.map reqCode = some codeWait)) && waitAfterWrite rest

/-! ## A write in progress -/

/-- What the array holds at `x` after the bytes of `d` are programmed from `a` on: old AND data there, old elsewhere (R225). -/
def programmed (m : Mem) (a : Nat) (d : List Byte) (x : Nat) : Byte :=
  if a ≤ x then
    match d[x - a]? with
    | some b => m.read x &&& b
    | none => m.read x
  else m.read x

/-- The bytes the client still has to give, one that C_WR has taken and not yet sent first. -/
def State.offered (s : State) : List Byte :=
  match s.outstanding with
  | some d => if s.seq = .cWr then d :: s.wdata else s.wdata
  | none => s.wdata

/-- A WRITE of `data` at `a` is in progress, `m` being the array when it was accepted and `rest` the bytes offered after its own:
`k` bytes have been sent, those before `j` in frames already closed (R163, R164, R171). -/
def State.Writing (m : Mem) (a : Nat) (data rest : List Byte) (s : State) (j k : Nat) : Prop :=
  s.op = codeWrite ∧ s.seq ≠ .idle ∧ s.seq ≠ .fin ∧ j ≤ k ∧ k ≤ data.length ∧
    s.curAddr = BitVec.ofNat 24 (a + k) ∧ s.remaining.toNat + k = data.length ∧ s.offered = data.drop k ++ rest ∧
    (∀ x, s.chip.mem.read x = programmed m a (data.take j) x) ∧
    (if s.seq = .cWr ∨ s.seq = .cDes then
      s.sent = header opcPP (BitVec.ofNat 24 (a + j)) ++ (data.take k).drop j ∧ (s.seq = .cDes → j < k)
     else j = k ∧ k < data.length)

end Sys2Proof.Machine
end

