-- ==== Sys2Proof/Certificates/Slice0/Obligations.lean ====
section
/-! DEFINITION. The statements for the provers. Where a statement speaks of a step, `s.tick` is the state after the environment's
part of it: only the chip's busy bit may have fallen and the draw counter has moved (R214; the cells as in log 14). -/

namespace Sys2Proof.Claims

open Sys2Proof.Machine

/-- One exchange whose received byte the block discards. -/
def out (t : Byte) : Event := .xfer t none

/-- `s` after a frame is closed, with the given chip. -/
def closed (s : State) (c : Chip) : State :=
  { s with chip := c, btSelect := false, frame := [], events := s.events ++ [.des] }

/-- `s` with a request loaded and the sequencer at `q` (R192). -/
def loaded (s : State) (c : Code) (a : Addr) (n : Len) (q : Seq) : State :=
  { s with op := c, curAddr := a, remaining := n, seq := q }

/-- The client's part of the state, the environment's and the parameters, which no row changes but by taking a request or a byte. -/
def sameInputs (s t : State) : Prop :=
  t.params = s.params ∧ t.rst = s.rst ∧ t.transport = s.transport ∧ t.pace = s.pace

/-- The datapath registers are unchanged (R20). -/
def sameDatapath (s t : State) : Prop :=
  t.op = s.op ∧ t.curAddr = s.curAddr ∧ t.remaining = s.remaining ∧ t.chunk = s.chunk

/-- The machine answers a state of which `P` holds. -/
def reaches (o : Host.Outcome State Fault Refusal) (P : State → Prop) : Prop :=
  ∃ t, o = .next t ∧ P t

/-- The requests that poll first, whatever the operands (R91). -/
def polls (s : State) (n : Len) : Prop := n ≠ 0#24 ∨ s.params.zeroLenWriteEmitsFrame = true

/-- A READ or WRITE of `n` bytes at `a` is not refused: it is in contract (R56), or the literal reading is taken. -/
def rangeTaken (s : State) (a : Addr) (n : Len) : Prop :=
  (a.toNat < s.params.capacity ∧ a.toNat + n.toNat ≤ s.params.capacity) ∨ s.params.outOfContract = .literal

end Sys2Proof.Claims

open Sys2Proof Sys2Proof.Machine Sys2Proof.Claims

/-! ## Encoding -/

/-- Decoding what the encoder writes gives the instruction back, whatever stands in the receive positions (R82, R83, R87). -/
def Obligations.DecodeOfEncodeIsIdentity : Prop :=
  ∀ (dummy : Byte) (i : Instr), decode (encode dummy i) = .ok i

/-- No two request words mean the same: the instruction read from a word encodes to that word (R87). -/
def Obligations.EncodeOfDecodedRequestIsTheWord : Prop :=
  ∀ (dummy : Byte) (w : ReqWord) (i : Instr), decode (.request w) = .ok i → encode dummy i = .request w

/-- A frame without receive positions encodes back to its own bytes; one with receive positions back to a frame of the same length
with the same opcode and address (R82, R84). -/
def Obligations.EncodeOfDecodedFrameIsTheFrame : Prop :=
  ∀ (dummy : Byte) (bytes : List Byte) (i : Instr), decode (.frame bytes) = .ok i →
    ∃ bytes', encode dummy i = .frame bytes' ∧ bytes'.length = bytes.length ∧
      (i ≠ .rdsr → bytes'.take 4 = bytes.take 4) ∧ bytes'.head? = bytes.head? ∧
      (i ≠ .rdsr → (∀ a n, i ≠ .readData a n) → bytes' = bytes)

/-- Exactly the words with code 6 or 7 decode to an error, whichever, and the error names them reserved (R86, R89). -/
def Obligations.ReservedCodesAreRejected : Prop :=
  ∀ w : ReqWord,
    ((∃ e, decode (.request w) = .error e) ↔ (reqCode w = 6#3 ∨ reqCode w = 7#3)) ∧
    (reqCode w = 6#3 ∨ reqCode w = 7#3 → decode (.request w) = .error .reservedCode)

/-- Which byte sequences are no frame, and by which name they are rejected (R81, R82, R84). -/
def Obligations.ForeignFramesAreRejected : Prop :=
  decode (.frame []) = .error .emptyFrame ∧
  (∀ opc rest, opc ∉ [opcPP, opcREAD, opcRDSR, opcWREN, opcBE, opcSE] →
    decode (.frame (opc :: rest)) = .error .unknownOpcode) ∧
  (∀ rest, rest.length ≠ 1 → decode (.frame (opcRDSR :: rest)) = .error .wrongLength) ∧
  (∀ rest, rest.length ≠ 0 → decode (.frame (opcWREN :: rest)) = .error .wrongLength ∧
    decode (.frame (opcBE :: rest)) = .error .wrongLength) ∧
  (∀ rest, rest.length ≠ 3 → decode (.frame (opcSE :: rest)) = .error .wrongLength) ∧
  (∀ rest, rest.length < 3 → decode (.frame (opcPP :: rest)) = .error .wrongLength ∧
    decode (.frame (opcREAD :: rest)) = .error .wrongLength)

/-- Six frames (V1 to V6) and five request words (P1, P4) written out in spec/95_test_vectors.md, and the word of ENABLE_WRITE made from the
encoding of R86 and R87, decode to what they stand for. -/
def Obligations.SampleWordsDecode : Prop :=
  decode (.frame [0x02#8, 0x00#8, 0x01#8, 0xFE#8, 0x11#8, 0x22#8]) = .ok (.pp 0x0001FE#24 [0x11#8, 0x22#8]) ∧
  decode (.frame [0x03#8, 0x1A#8, 0xBC#8, 0xDE#8, 0x00#8, 0x00#8, 0x00#8]) = .ok (.readData 0x1ABCDE#24 3) ∧
  decode (.frame [0x05#8, 0x00#8]) = .ok .rdsr ∧
  decode (.frame [0x06#8]) = .ok .wren ∧
  decode (.frame [0xC7#8]) = .ok .be ∧
  decode (.frame [0xD8#8, 0x01#8, 0x23#8, 0x45#8]) = .ok (.se 0x012345#24) ∧
  decode (.request 0x00000FC000008#51) = .ok (.readReq 0x0000FC#24 8#24) ∧
  decode (.request 0x10000FE000004#51) = .ok (.writeReq 0x0000FE#24 4#24) ∧
  decode (.request 0x2012345000000#51) = .ok (.eraseSectorReq 0x012345#24 0#24) ∧
  decode (.request 0x3000000000000#51) = .ok (.eraseAllReq 0#24 0#24) ∧
  decode (.request 0x4000000000000#51) = .ok (.waitReq 0#24 0#24) ∧
  decode (.request 0x5000000000000#51) = .ok (.enableWriteReq 0#24 0#24)

/-! ## A step runs the decoded instruction -/

/-- In IDLE, a step takes the request at the head of the port off it and is `exec` of it, after the environment's part. R192
gives the acceptance; that it is `exec` of the request (log 12), comes after the environment's part (log 5) and takes the head of a list
(log 16) is the model's choice. -/
def Obligations.StepExecutesTheRequestAtThePort : Prop :=
  ∀ (s : State) (w : ReqWord) (rest : List ReqWord) (i : Instr),
    s.rst = false → s.seq = .idle → s.requests = w :: rest → decode (.request w) = .ok i →
      step s = exec i { s.tick with requests := rest }

/-- Where a frame is closed, a step is `exec` of the frame that the exchanged bytes decode to, followed by the sequencer's choice of
its next state (R110, R191, R212; the division is the model's, log 12). -/
def Obligations.StepExecutesTheFrameBeingClosed : Prop :=
  ∀ (s : State) (i : Instr),
    s.rst = false → s.seq ∈ [Seq.pDes, Seq.wDes, Seq.cDes] → decode (.frame s.sent) = .ok i →
      step s = andThen (exec i s.tick) afterInstr

/-- With no request offered the block stays in IDLE for ever and nothing is seen on the bus (R190, R261). That the array of a
busy chip stays is the reference model's choice (R222, log 14). -/
def Obligations.IdleBlockStaysSilent : Prop :=
  ∀ (k : Nat) (s : State), s.rst = false → s.seq = .idle → s.requests = [] →
    reaches (runSteps k s) fun t =>
      t.seq = .idle ∧ t.events = s.events ∧ t.btSelect = s.btSelect ∧ t.srShadow = s.srShadow ∧ sameDatapath s t ∧
        t.chip.mem = s.chip.mem ∧ t.wdata = s.wdata

/-! ## Requests -/

/-- Acceptance in IDLE: the three fields are loaded whatever the request, the next state is chosen from them, and nothing else
changes but the poll count, which Poll() starts at 0 (R192, R191, R246). -/
def Obligations.AcceptanceLoadsTheRequest : Prop :=
  ∀ (s : State) (a : Addr) (n : Len), s.seq = .idle →
    (rangeTaken s a n →
      exec (.readReq a n) s = .next { loaded s codeRead a n .pSel with pollCnt := 0 }) ∧
    (rangeTaken s a n → polls s n →
      exec (.writeReq a n) s = .next { loaded s codeWrite a n .pSel with pollCnt := 0 }) ∧
    (rangeTaken s a n → ¬ polls s n → exec (.writeReq a n) s = .next (loaded s codeWrite a n .fin)) ∧
    (a.toNat < s.params.capacity ∨ s.params.outOfContract = .literal →
      exec (.eraseSectorReq a n) s = .next { loaded s codeEraseSector a n .pSel with pollCnt := 0 }) ∧
    exec (.eraseAllReq a n) s = .next { loaded s codeEraseAll a n .pSel with pollCnt := 0 } ∧
    exec (.waitReq a n) s = .next { loaded s codeWait a n .pSel with pollCnt := 0 } ∧
    exec (.enableWriteReq a n) s = .next { loaded s codeEnableWrite a n .pSel with pollCnt := 0 }

/-- Acceptance of any request word: a step in IDLE takes the word off the port and loads `op`, `cur_addr` and `remaining` with its three
fields whatever the request (R192, R87); the next state is chosen from the loaded values (R191); `sr_shadow`, `chunk`, `bt_select` and
`timeout_err` are not changed, and `poll_cnt` only where a poll is entered (R246). Said of every word that the model does not refuse: in
contract, or under the literal reading any, codes 6 and 7 included (R201, U1; the reading is the model's choice, logs 10 and 11). -/
def Obligations.AcceptanceLoadsWhateverTheRequest : Prop :=
  ∀ (s : State) (w : ReqWord) (rest : List ReqWord),
    s.rst = false → s.seq = .idle → s.requests = w :: rest →
    (s.params.outOfContract = .literal ∨ wordInContract s.params w = true) →
      reaches (step s) fun t =>
        t.requests = rest ∧ t.op = w.extractLsb' 48 3 ∧ t.curAddr = w.extractLsb' 24 24 ∧ t.remaining = w.extractLsb' 0 24 ∧
          t.srShadow = s.srShadow ∧ t.chunk = s.chunk ∧ t.btSelect = s.btSelect ∧ t.events = s.events ∧
          t.timeoutErr = s.timeoutErr ∧ t.pollCnt = (if t.seq = .pSel then 0 else s.pollCnt) ∧
          t.seq = (if t.op = codeWrite ∧ t.remaining = 0#24 ∧ s.params.zeroLenWriteEmitsFrame = false then .fin
            else if t.op.toNat = 6 ∨ t.op.toNat = 7 then .fin else .pSel)

/-- Under the reading `refuse`, a READ or WRITE is refused exactly when its range is not inside the array, an ERASE_SECTOR exactly
when its address is not, and no other request ever (R56, R12). -/
def Obligations.OutOfContractRequestsAreRefused : Prop :=
  ∀ (s : State) (a : Addr) (n : Len), s.seq = .idle → s.params.outOfContract = .refuse →
    (exec (.readReq a n) s = .refused .outOfContract ↔
      ¬ (a.toNat < s.params.capacity ∧ a.toNat + n.toNat ≤ s.params.capacity)) ∧
    (exec (.writeReq a n) s = .refused .outOfContract ↔
      ¬ (a.toNat < s.params.capacity ∧ a.toNat + n.toNat ≤ s.params.capacity)) ∧
    (exec (.eraseSectorReq a n) s = .refused .outOfContract ↔ ¬ a.toNat < s.params.capacity) ∧
    (∀ r, exec (.eraseAllReq a n) s ≠ .refused r) ∧ (∀ r, exec (.waitReq a n) s ≠ .refused r) ∧
    (∀ r, exec (.enableWriteReq a n) s ≠ .refused r)

/-- A request word with a reserved code is refused under the reading `refuse`; under `literal` the block accepts it, emits no bus
event, changes no register but `op`, `cur_addr`, `remaining`, and completes at once (R89, R201). -/
def Obligations.ReservedCodesAreRefusedOrCompleteAtOnce : Prop :=
  ∀ (s : State) (w : ReqWord) (rest : List ReqWord),
    s.rst = false → s.seq = .idle → s.requests = w :: rest → reqCode w = 6#3 ∨ reqCode w = 7#3 →
      (s.params.outOfContract = .refuse → step s = .refused .reservedRequest) ∧
      (s.params.outOfContract = .literal →
        step s = .next { loaded s.tick (reqCode w) (reqAddr w) (reqLen w) .fin with requests := rest })

/-- While the block is busy a request has no effect and waits at the port: no step out of a busy state takes one (R28).
That `exec` of a request leaves a busy state as it is is the model's deduction (log 24): a step never executes one there. -/
def Obligations.RequestsWaitWhileBusy : Prop :=
  ∀ s : State, s.seq ≠ .idle →
    (∀ a n, exec (.readReq a n) s = .next s ∧ exec (.writeReq a n) s = .next s ∧
      exec (.eraseSectorReq a n) s = .next s ∧ exec (.eraseAllReq a n) s = .next s ∧
      exec (.waitReq a n) s = .next s ∧ exec (.enableWriteReq a n) s = .next s) ∧
    (∀ t, step s = .next t → t.requests = s.requests)

/-- A WRITE of length 0 is accepted and completes in two steps with no bus event; it takes no write data and leaves `sr_shadow`
and the array alone (R166, V50). That the array of a busy chip stays is the reference model's choice (R222, log 14). -/
def Obligations.ZeroLengthWriteTouchesNothing : Prop :=
  ∀ (s : State) (a : Addr) (rest : List ReqWord),
    s.rst = false → s.seq = .idle → s.requests = packRequest codeWrite a 0#24 :: rest → a.toNat < s.params.capacity →
      s.params.zeroLenWriteEmitsFrame = false →
        reaches (runSteps 2 s) fun t =>
          t.seq = .idle ∧ t.requests = rest ∧ t.events = s.events ++ [.done] ∧ t.wdata = s.wdata ∧ t.srShadow = s.srShadow ∧
            t.chip.mem = s.chip.mem ∧ t.chip.wel = s.chip.wel ∧ t.btSelect = s.btSelect

/-! ## Frames -/

/-- RDSR closed after its two exchanges: the byte received in position 1 is in `sr_shadow`, the chip is unchanged, busy or not, and
nothing else changes but the select line and the open frame (R111, R213). -/
def Obligations.RdsrKeepsTheStatusByte : Prop :=
  ∀ (s : State) (x : Exchange) (d st : Byte), s.transport ≠ .unfaithful → s.frame = [x, { tx := d, rx := some st }] →
    exec .rdsr s = .next (closed { s with srShadow := st } s.chip)

/-- On a WREN frame the latch of an idle chip is set, whether it was set or not, and nothing else changes but the select line and
the open frame (R215). -/
def Obligations.WrenSetsTheLatch : Prop :=
  ∀ s : State, s.transport ≠ .unfaithful → s.chip.wip = false →
    exec .wren s = .next (closed s { mem := s.chip.mem, wel := true, wip := false })

/-- A read-data frame inside the array, any address and count, leaves an idle chip as it was, and nothing else changes but the select line
and the open frame (R113, R216, R59). Past the end of the array the chip is a free value (log 7). -/
def Obligations.ReadFrameHasNoSideEffect : Prop :=
  ∀ (s : State) (a : Addr) (n : Nat), s.transport ≠ .unfaithful → s.chip.wip = false →
    a.toNat < s.params.capacity → a.toNat + n ≤ s.params.capacity →
      exec (.readData a n) s = .next (closed s s.chip)

/-- With latch set and chip idle, a page-program frame of 1 to 256 bytes programs old AND data, byte `k` in the page of the address at
offset `(A[7:0] + k) mod 256`, which is `A + k` where the frame fits its page; every other byte is unchanged; the chip is busy and
the latch used up; nothing else changes but the select line and the open frame (R217, R55). That the cells and the latch change at
acceptance is the reference model's choice (R222, log 14). -/
def Obligations.PageProgramClearsBitsInItsPage : Prop :=
  ∀ (s : State) (a : Addr) (d : List Byte),
    s.transport ≠ .unfaithful → s.chip.wel = true → s.chip.wip = false → Mem.wf s.params.capacity s.chip.mem = true →
    1 ≤ d.length → d.length ≤ 256 →
    (∀ k, k < d.length → a.toNat / 256 * 256 + (a.toNat % 256 + k) % 256 < s.params.capacity) →
      ∃ c, exec (.pp a d) s = .next (closed s c) ∧ c.wip = true ∧ c.wel = false ∧
        (∀ k b, d[k]? = some b →
          c.mem.read (a.toNat / 256 * 256 + (a.toNat % 256 + k) % 256) =
            s.chip.mem.read (a.toNat / 256 * 256 + (a.toNat % 256 + k) % 256) &&& b) ∧
        (∀ x, (∀ k, k < d.length → x ≠ a.toNat / 256 * 256 + (a.toNat % 256 + k) % 256) →
          c.mem.read x = s.chip.mem.read x) ∧
        (a.toNat % 256 + d.length ≤ 256 → ∀ x, c.mem.read x = programmed s.chip.mem a.toNat d x)

/-- With latch set and chip idle, a sector-erase frame sets every byte of the aligned block of SECTOR_SIZE bytes that contains its
address to 0xFF and no other; the chip is busy and the latch used up (R218). Sectors as aligned blocks and the moment of the effect are the
reference model's choices (R218, R222, log 14). -/
def Obligations.SectorEraseErasesItsSector : Prop :=
  ∀ (s : State) (a : Addr),
    s.transport ≠ .unfaithful → s.chip.wel = true → s.chip.wip = false → Mem.wf s.params.capacity s.chip.mem = true →
    a.toNat < s.params.capacity → 0 < s.params.sectorSize →
      ∃ c, exec (.se a) s = .next (closed s c) ∧ c.wip = true ∧ c.wel = false ∧
        (∀ x, c.mem.read x =
          if x / s.params.sectorSize = a.toNat / s.params.sectorSize then 0xFF#8 else s.chip.mem.read x)

/-- With latch set and chip idle, a bulk-erase frame sets every byte of the array to 0xFF; the chip is busy and the latch used up
(R219). The moment of the effect is the reference model's choice (R222, log 14). -/
def Obligations.BulkEraseErasesTheArray : Prop :=
  ∀ s : State, s.transport ≠ .unfaithful → s.chip.wel = true → s.chip.wip = false →
    ∃ c, exec .be s = .next (closed s c) ∧ c.wip = true ∧ c.wel = false ∧ ∀ x, c.mem.read x = 0xFF#8

/-- The block's side of closing a frame, in every state and whatever the chip makes of it: it completes, the select line is released,
and no register changes but `sr_shadow`, by RDSR alone (R110 to R116). -/
def Obligations.ClosingAFrameCompletes : Prop :=
  ∀ s : State,
    (∃ c st, exec .rdsr s = .next (closed { s with srShadow := st } c)) ∧ (∃ c, exec .wren s = .next (closed s c)) ∧
    (∃ c, exec .be s = .next (closed s c)) ∧ (∀ a, ∃ c, exec (.se a) s = .next (closed s c)) ∧
    (∀ a n, ∃ c, exec (.readData a n) s = .next (closed s c)) ∧ (∀ a d, ∃ c, exec (.pp a d) s = .next (closed s c))

/-! ## What the block receives -/

/-- The status exchange of a poll: the byte received is in `sr_shadow`, its bit 0 is the chip's busy bit at that moment if the
transport is faithful, and the chip is not changed (R134, R213). -/
def Obligations.StatusByteShowsTheBusyBit : Prop :=
  ∀ (s : State) (x : Option Byte),
    s.rst = false → s.seq = .pSta → s.transport ≠ .stalled → s.frame = [{ tx := opcRDSR, rx := x }] →
      ∃ t r, step s = .next t ∧ t.seq = .pDes ∧ t.srShadow = r ∧ t.chip = s.tick.chip ∧ sameDatapath s t ∧
        t.events = s.events ++ [.xfer s.params.dummyTx (some r)] ∧
        (s.transport = .faithful → r.getLsbD 0 = s.tick.chip.wip)

/-- A data exchange of a read: the byte received is pushed and counted; with a faithful transport and an idle chip it is the byte of the
array at the frame's address plus its position (R151, R152, R216). -/
def Obligations.ReadByteComesFromTheArray : Prop :=
  ∀ (s : State) (a : Addr) (k : Nat),
    s.rst = false → s.seq = .cRd → s.transport ≠ .stalled → s.sent = header opcREAD a ++ List.replicate k s.params.dummyTx →
      ∃ t b, step s = .next t ∧ t.events = s.events ++ [.xfer s.params.dummyTx (some b), .pushed b] ∧
        t.curAddr = s.curAddr + 1#24 ∧ t.remaining = s.remaining - 1#24 ∧
        t.seq = (if s.remaining = 1#24 then .cDes else .cRd) ∧ t.chip = s.tick.chip ∧
        (s.transport = .faithful → s.chip.wip = false → a.toNat + k < s.params.capacity →
          b = s.chip.mem.read (a.toNat + k))

/-! ## The rows of the transition table -/

/-- A poll sends the exchanges of one read-status frame: select, 0x05, the dummy byte with the status byte received (R111, R134); the frame
is still open. The poll count goes up by 1 where there is a limit (R246) and stays where there is none (log 23). That the array of a busy
chip stays is the reference model's choice (R222, log 14). -/
def Obligations.PollSendsOneReadStatusFrame : Prop :=
  ∀ s : State, s.rst = false → s.seq = .pSel → s.transport ≠ .stalled →
    reaches (runSteps 3 s) fun t =>
      t.seq = .pDes ∧ t.btSelect = true ∧ sameDatapath s t ∧ sameInputs s t ∧ t.chip.mem = s.chip.mem ∧
        t.events = s.events ++ [.sel, out opcRDSR, .xfer s.params.dummyTx (some t.srShadow)] ∧
        t.frame = [{ tx := opcRDSR, rx := none }, { tx := s.params.dummyTx, rx := some t.srShadow }] ∧
        t.pollCnt = (if s.params.pollLimit.isSome then s.pollCnt + 1 else s.pollCnt)

/-- The end of a poll: the select line is released; while bit 0 of the status byte is 1 the next poll starts, or the bounded variant
gives up at its limit; else the sequencer goes where `op` says (R131, R134, R191, R246). -/
def Obligations.PollEndsOnlyOnBitZero : Prop :=
  ∀ (s : State) (x : Option Byte),
    s.rst = false → s.seq = .pDes → s.op.toNat ≤ 5 →
    s.frame = [{ tx := opcRDSR, rx := x }, { tx := s.params.dummyTx, rx := some s.srShadow }] →
      reaches (step s) fun t =>
        t.events = s.events ++ [.des] ∧ t.btSelect = false ∧ t.srShadow = s.srShadow ∧ sameDatapath s t ∧
        (s.srShadow.getLsbD 0 = true → s.params.pollLimit ≠ some s.pollCnt →
          t.seq = .pSel ∧ t.timeoutErr = s.timeoutErr) ∧
        (s.srShadow.getLsbD 0 = true → s.params.pollLimit = some s.pollCnt → t.seq = .fin ∧ t.timeoutErr = true) ∧
        (s.srShadow.getLsbD 0 = false →
          t.timeoutErr = s.timeoutErr ∧
          t.seq = (if s.op = codeWait then .fin else if s.op = codeRead then .cSel else .wSel))

/-- The write-enable frame: select, 0x06, deselect; a WRITE loads its chunk; ENABLE_WRITE is then finished and every other request goes
straight to its command frame (R145); an idle chip's latch is set (R143, R215). W_SEL is entered only from P_DES with bit 0 of the status
byte 0 (R145). -/
def Obligations.WriteEnableFrameThenCommand : Prop :=
  (∀ s : State, s.rst = false → s.seq = .wSel → s.transport ≠ .stalled →
    reaches (runSteps 3 s) fun t =>
      t.events = s.events ++ [.sel, out opcWREN, .des] ∧ t.btSelect = false ∧ t.srShadow = s.srShadow ∧
        t.op = s.op ∧ t.curAddr = s.curAddr ∧ t.remaining = s.remaining ∧
        t.chunk.toNat = (if s.op = codeWrite then min (256 - s.curAddr.toNat % 256) s.remaining.toNat else s.chunk.toNat) ∧
        t.seq = (if s.op = codeEnableWrite then .fin else .cSel) ∧
        (s.transport = .faithful → s.chip.wip = false →
          t.chip = { mem := s.chip.mem, wel := true, wip := false })) ∧
  (∀ s t : State, step s = .next t → t.seq = .wSel → s.seq = .pDes ∧ t.srShadow.getLsbD 0 = false)

/-- The header of READ, WRITE and ERASE_SECTOR: select, the opcode of the request, the three bytes of `cur_addr` most significant
first; then the data, if there are any (R83, R110, R191, R194). That the array and latch of a busy chip stay is the reference model's
choice (R222, log 14). -/
def Obligations.HeaderGoesMostSignificantFirst : Prop :=
  ∀ s : State, s.rst = false → s.seq = .cSel → s.transport ≠ .stalled → s.op.toNat ≤ 2 →
    reaches (runSteps 5 s) fun t =>
      t.events = s.events ++ [.sel,
        out (if s.op = codeRead then 0x03#8 else if s.op = codeWrite then 0x02#8 else 0xD8#8),
        out (s.curAddr.extractLsb' 16 8), out (s.curAddr.extractLsb' 8 8), out (s.curAddr.extractLsb' 0 8)] ∧
      t.btSelect = true ∧ sameDatapath s t ∧ t.srShadow = s.srShadow ∧ t.chip.mem = s.chip.mem ∧ t.chip.wel = s.chip.wel ∧
      t.seq = (if s.op = codeRead then (if s.remaining = 0#24 then .cDes else .cRd)
        else if s.op = codeWrite then (if s.chunk = 0#9 then .cDes else .cWr) else .cDes)

/-- A data byte of a page program: the next byte of the stream is taken, sent and counted in all three counters (R163, R191). One that a
stalled step has taken already is sent and counted, and no second byte is taken (R196, log 19). -/
def Obligations.WriteByteIsTakenSentAndCounted : Prop :=
  ∀ (s : State) (d : Byte) (taken : List Event),
    s.rst = false → s.seq = .cWr → s.transport ≠ .stalled →
    (s.outstanding = none ∧ s.wdata.head? = some d ∧ taken = [.taken d] ∨ s.outstanding = some d ∧ taken = []) →
      reaches (step s) fun t =>
        t.wdata = (if s.outstanding = none then s.wdata.tail else s.wdata) ∧ t.outstanding = none ∧
        t.events = s.events ++ taken ++ [out d] ∧ t.sent = s.sent ++ [d] ∧
        t.curAddr = s.curAddr + 1#24 ∧ t.remaining = s.remaining - 1#24 ∧ t.chunk = s.chunk - 1#9 ∧
        t.seq = (if s.chunk = 1#9 then .cDes else .cWr) ∧ t.chip = s.tick.chip ∧ t.srShadow = s.srShadow

/-- Without a byte from the client the block waits in C_WR with the chip selected, for as long as it takes (R29). -/
def Obligations.WriteWaitsForTheClient : Prop :=
  ∀ (k : Nat) (s : State), s.Inv → s.rst = false → s.seq = .cWr → s.outstanding = none → s.wdata = [] →
    reaches (runSteps k s) fun t =>
      t.seq = .cWr ∧ t.btSelect = true ∧ t.events = s.events ∧ t.frame = s.frame ∧ sameDatapath s t ∧
        (s.chip.wip = false → t.chip = s.chip)

/-- The end of a command frame: the select line is released; a WRITE with data left polls for its next chunk, every other request is
finished, whatever the chip makes of the frame (R170, R191). -/
def Obligations.CommandFrameEndsTheRequestOrPolls : Prop :=
  ∀ s : State, s.rst = false → s.seq = .cDes →
    reaches (step s) fun t =>
      t.events = s.events ++ [.des] ∧ t.btSelect = false ∧ sameDatapath s t ∧
        t.seq = (if s.op = codeWrite ∧ s.remaining ≠ 0#24 then .pSel else .fin)

/-- FIN: done for one step, then IDLE; nothing else changes but by the environment (R197, R32). -/
def Obligations.FinSignalsDoneOnce : Prop :=
  ∀ s : State, s.rst = false → s.seq = .fin →
    s.done = true ∧ step s = .next { s.tick with seq := .idle, events := s.events ++ [.done] }

/-- A transfer that the transport does not complete: the block stays in its state with the byte of that state on `bt_tx`, no exchange is
seen, and no register changes; in C_WR without a byte it waits for that instead (R196, R202). The field that holds the byte is log 19; that
the array of a busy chip stays is the reference model's choice (R222, log 14). -/
def Obligations.StalledTransferIsHeld : Prop :=
  ∀ s : State, s.rst = false → s.transport = .stalled → s.seq.transfers = true → s.Inv →
    reaches (step s) fun t =>
      t.seq = s.seq ∧ t.btSelect = s.btSelect ∧ t.frame = s.frame ∧ t.srShadow = s.srShadow ∧ sameDatapath s t ∧
        t.pollCnt = s.pollCnt ∧ t.timeoutErr = s.timeoutErr ∧ t.trace = s.trace ∧ t.chip.mem = s.chip.mem ∧
        t.outstanding = s.btTx ∧ t.btTx = s.btTx ∧ t.btStart = false ∧
        (s.btTx = none → s.seq = .cWr ∧ s.outstanding = none ∧ s.wdata = [])

/-! ## The split -/

/-- The size of the next chunk is the lesser of what is left of the page and of the data; it is 1 to 256, stays in the page, and ends
on the last byte of the page unless it is the last (R161). -/
def Obligations.ChunkStaysInItsPage : Prop :=
  ∀ (a : Addr) (n : Len), n ≠ 0#24 →
    chunkSize a n = min (256 - a.toNat % 256) n.toNat ∧ 1 ≤ chunkSize a n ∧ chunkSize a n ≤ 256 ∧
      a.toNat % 256 + chunkSize a n ≤ 256 ∧ (chunkSize a n < n.toNat → (a.toNat + chunkSize a n) % 256 = 0)

/-- The chunk list in closed form: how many chunks, and the first, the middle and the last of them (R162). -/
def Obligations.SplitHasTheClosedForm : Prop :=
  ∀ (a : Addr) (n : Len) (fuel : Nat), n ≠ 0#24 → a.toNat + n.toNat ≤ 2 ^ 24 → n.toNat ≤ fuel →
    (splitWrite fuel a n).length = (a.toNat % 256 + n.toNat - 1) / 256 + 1 ∧
    (splitWrite fuel a n)[0]? = some (a, min (256 - a.toNat % 256) n.toNat) ∧
    (∀ i, 0 < i → i + 1 < (splitWrite fuel a n).length →
      (splitWrite fuel a n)[i]? = some (BitVec.ofNat 24 ((a.toNat / 256 + i) * 256), 256)) ∧
    (1 < (splitWrite fuel a n).length →
      (splitWrite fuel a n)[(splitWrite fuel a n).length - 1]? =
        some (BitVec.ofNat 24 ((a.toNat / 256 + (splitWrite fuel a n).length - 1) * 256),
          (a.toNat % 256 + n.toNat - 1) % 256 + 1)) ∧
    ((splitWrite fuel a n).map (·.2)).sum = n.toNat

/-! ## Reset -/

/-- What reset leaves, as far as the spec gives it: the sequencer idle, the chip not selected, the variant's registers 0, and the
outputs that follow from them (R37). -/
def Obligations.ResetStateAsTheSpecGivesIt : Prop :=
  State.reset.seq = .idle ∧ State.reset.btSelect = false ∧ State.reset.pollCnt = 0 ∧ State.reset.timeoutErr = false ∧
    State.reset.reqReady = true ∧ State.reset.busy = false ∧ State.reset.done = false ∧ State.reset.wdataReady = false ∧
    State.reset.rdataValid = false ∧ State.reset.btStart = false ∧ State.reset.outstanding = none ∧ State.reset.events = []

/-- A step with `rst` = 1, in any state: the request in progress is abandoned without `done`, at the port (the model's choice in FIN,
log 18) and in the log; `wdata_ready` is 0 (log 18 too); the registers with a reset value take it, no request and no byte is taken from
a port, no request can be accepted and no transfer starts; a chip with no frame open is touched by the environment alone, and in a busy
one the command already started goes on even if a frame is cut (R260, R262; log 18). That the cells of a busy chip then stay as they are
is log 14 (R222). -/
def Obligations.RstOverridesEveryTransition : Prop :=
  ∀ s : State, s.rst = true →
    s.done = false ∧ s.btStart = false ∧ s.rdataValid = false ∧ s.wdataReady = false ∧
    reaches (step s) fun t =>
      t.seq = .idle ∧ t.btSelect = false ∧ t.pollCnt = 0 ∧ t.timeoutErr = false ∧ t.outstanding = none ∧ t.frame = [] ∧
        t.reqReady = false ∧ t.requests = s.requests ∧ t.wdata = s.wdata ∧ t.completions = s.completions ∧
        t.events = (if s.btSelect then s.events ++ [.des] else s.events) ∧
        (s.btSelect = false → t.chip = s.tick.chip) ∧
        (s.tick.chip.wip = true → t.chip.mem = s.chip.mem ∧ t.chip.wip = true)

/-! ## Invariants -/

/-- The invariant holds right after reset. -/
def Obligations.ResetSatisfiesTheInvariant : Prop :=
  State.reset.Inv ∧ State.reset.ChipQuiet

/-- Every step keeps the invariant, whatever the client, the transport and the chip do: the array in canonical form, the select line as
R193 says, the operation, the counters and the open frame as R198 and R199 say, the operands in contract. -/
def Obligations.StepKeepsTheInvariant : Prop :=
  ∀ s t : State, s.Inv → step s = .next t → t.Inv

/-- Under a transport that delivers what is sent, every step keeps this: a chip that the block sends anything but a read-status frame
is idle, and where a program or erase is sent its latch is set (R63, R136, R143, R220, R221). -/
def Obligations.StepKeepsTheChipQuiet : Prop :=
  ∀ s t : State, s.Inv → s.ChipQuiet → step s = .next t → t.ChipQuiet

/-- The table has a row for every state that meets the invariant: a step never faults (R191, R240). -/
def Obligations.StepNeverFaults : Prop :=
  ∀ (s : State) (r : Fault), s.Inv → step s ≠ .fault r

/-- A step refuses only in IDLE, only a request, and only under the reading `refuse` (R12). -/
def Obligations.RefusalOnlyAtAcceptance : Prop :=
  ∀ (s : State) (r : Refusal), step s = .refused r →
    s.seq = .idle ∧ s.requests ≠ [] ∧ s.params.outOfContract = .refuse ∧ (r = .outOfContract ∨ r = .reservedRequest)

/-- Every frame the block closes is one of the six, whatever the reading of the contract; and in contract it is a well-formed one: a page
program of 1 to 256 bytes inside one page, addresses inside the array (R54, R82, R85, R165). -/
def Obligations.ClosedFramesAreWellFormed : Prop :=
  ∀ s : State, s.Inv → s.seq ∈ [Seq.pDes, Seq.wDes, Seq.cDes] →
    ∃ i, decode (.frame s.sent) = .ok i ∧
      (s.params.outOfContract = .refuse → s.params.zeroLenWriteEmitsFrame = false → i.wellFormed s.params = true)

/-- The first byte of every frame is one of the six opcodes, whatever the requests and the received bytes (R90). -/
def Obligations.OnlySixOpcodesAreSent : Prop :=
  ∀ (s : State) (x : Exchange) (rest : List Exchange), s.Inv → s.frame = x :: rest →
    x.tx ∈ [0x05#8, 0x06#8, 0x03#8, 0x02#8, 0xD8#8, 0xC7#8]

/-- At most one bus event a step, and frames never overlap: SEL only while the chip is not selected, an exchange and DES only while it
is; the byte sent is the one on `bt_tx`; a transfer is started only while none is outstanding and the chip is selected
(R31, R61, R195, R199). The pulse as a function of the state a step starts from is log 30. -/
def Obligations.FramesNeverOverlap : Prop :=
  ∀ s t : State, s.Inv → step s = .next t →
    (s.btStart = true → s.outstanding = none ∧ s.btSelect = true) ∧
    ∃ ev, t.events = s.events ++ ev ∧ (ev.filter Event.isBus).length ≤ 1 ∧
      (Event.sel ∈ ev → s.btSelect = false ∧ t.btSelect = true) ∧
      (∀ tx rx, Event.xfer tx rx ∈ ev → s.btTx = some tx ∧ s.btSelect = true ∧ t.btSelect = true) ∧
      (Event.des ∈ ev → s.btSelect = true ∧ t.btSelect = false)

/-- Which states lead to W_SEL and C_SEL: W_SEL only from the end of a poll that read bit 0 = 0; C_SEL only from the end of the
write-enable frame, or, for READ, from such a poll (R199). -/
def Obligations.CommandOnlyAfterAnIdlePoll : Prop :=
  ∀ s t : State, s.Inv → step s = .next t →
    (t.seq = .wSel → s.seq = .pDes ∧ s.wipSeen = false) ∧
    (t.seq = .cSel → s.seq = .wDes ∨ (s.seq = .pDes ∧ s.wipSeen = false ∧ s.op = codeRead))

/-- While a request is carried out `op` is fixed (R199), and no step at all changes the parameters, `rst`, the transport or the chip's
pace: the model holds them in its state and gives them no rule (logs 1 and 18). -/
def Obligations.OpIsFixedWhileBusy : Prop :=
  ∀ s t : State, step s = .next t → sameInputs s t ∧ (s.rst = false → s.seq ≠ .idle → t.op = s.op)

/-- A write-data byte is taken only in C_WR with `wdata_ready` 1, one at a time, the head of the stream; a byte is pushed exactly where
`rdata_valid` is 1, it is the byte on `rdata`, and that is only in C_RD (R29, R30, R193; the pulse as a function of the state a step
starts from is log 30). -/
def Obligations.DataMovesOnlyInItsState : Prop :=
  ∀ s t : State, step s = .next t →
    (t.wdata = s.wdata ∧ t.dataTaken = s.dataTaken ∨
      s.seq = .cWr ∧ s.wdataReady = true ∧ ∃ d, s.wdata = d :: t.wdata ∧ t.dataTaken = s.dataTaken ++ [d]) ∧
    t.readData = s.readData ++ (if s.rdataValid then [s.rdata] else []) ∧ (s.rdataValid = true → s.seq = .cRd)

/-- With a transport that delivers what is sent, the chip becomes busy and its array changes only where the block closes a page-program,
sector-erase or bulk-erase frame (R59, R185), or a read past the array under the literal reading, after which the chip is a free value (log
7). That the busy bit rises only so is assumed (R214, D26; log 26); that the array changes there and not at the finishing step is the
reference model's choice (R222, log 14). -/
def Obligations.ChipChangesOnlyByCommand : Prop :=
  ∀ s t : State, s.Inv → s.ChipQuiet → s.transport ≠ .unfaithful → s.rst = false → step s = .next t →
    (s.chip.wip = false ∧ t.chip.wip = true ∨ t.chip.mem ≠ s.chip.mem) →
      s.seq = .cDes ∧ (s.op = codeWrite ∨ s.op = codeEraseSector ∨ s.op = codeEraseAll ∨
        s.op = codeRead ∧ s.params.outOfContract = .literal)

/-- `timeout_err` is sticky: only reset clears it; and without a limit it is never set (R246). -/
def Obligations.TimeoutIsStickyAndNeedsALimit : Prop :=
  ∀ s t : State, step s = .next t →
    (s.rst = false → s.timeoutErr = true → t.timeoutErr = true) ∧
    (s.params.pollLimit = none → s.timeoutErr = false → t.timeoutErr = false)

/-! ## Whole requests -/

/-- WAIT on an idle chip: six steps, one read-status frame, done; the status byte left in `sr_shadow` has bit 0 = 0 (R130). -/
def Obligations.WaitCompletesOnAnIdleChip : Prop :=
  ∀ (s : State) (a : Addr) (n : Len) (rest : List ReqWord),
    s.rst = false → s.seq = .idle → s.requests = packRequest codeWait a n :: rest → s.transport = .faithful →
    s.chip.wip = false →
      reaches (runSteps 6 s) fun t =>
        t.seq = .idle ∧ t.requests = rest ∧ t.chip = s.chip ∧ t.srShadow.getLsbD 0 = false ∧ t.wdata = s.wdata ∧
          t.events = s.events ++ [.sel, out 0x05#8, .xfer s.params.dummyTx (some t.srShadow), .des, .done]

/-- ENABLE_WRITE on an idle chip: nine steps, one read-status frame, one write-enable frame, done; the latch stays set (R140). -/
def Obligations.EnableWriteLeavesTheLatchSet : Prop :=
  ∀ (s : State) (a : Addr) (n : Len) (rest : List ReqWord),
    s.rst = false → s.seq = .idle → s.requests = packRequest codeEnableWrite a n :: rest → s.transport = .faithful →
    s.chip.wip = false →
      reaches (runSteps 9 s) fun t =>
        t.seq = .idle ∧ t.requests = rest ∧ t.chip = { mem := s.chip.mem, wel := true, wip := false } ∧ t.wdata = s.wdata ∧
          t.events = s.events ++ [.sel, out 0x05#8, .xfer s.params.dummyTx (some t.srShadow), .des,
            .sel, out 0x06#8, .des, .done]

/-- ERASE_ALL on an idle chip: twelve steps, the read-status, write-enable and bulk-erase frames, done; the array reads 0xFF
everywhere and the latch is used up (R181, R182, R219), at acceptance, the reference model's choice (R222, log 14). -/
def Obligations.EraseAllErasesTheArray : Prop :=
  ∀ (s : State) (a : Addr) (n : Len) (rest : List ReqWord),
    s.rst = false → s.seq = .idle → s.requests = packRequest codeEraseAll a n :: rest → s.transport = .faithful →
    s.chip.wip = false →
      reaches (runSteps 12 s) fun t =>
        t.seq = .idle ∧ t.requests = rest ∧ t.wdata = s.wdata ∧ t.chip.wel = false ∧ (∀ x, t.chip.mem.read x = 0xFF#8) ∧
          t.events = s.events ++ [.sel, out 0x05#8, .xfer s.params.dummyTx (some t.srShadow), .des,
            .sel, out 0x06#8, .des, .sel, out 0xC7#8, .des, .done]

/-- ERASE_SECTOR on an idle chip: fifteen steps, the read-status, write-enable and sector-erase frames with the address as given, done;
the sector that contains the address reads 0xFF, every other byte is unchanged, and the latch is used up
(R180, R182, R218), at acceptance, the reference model's choice (R222, log 14). -/
def Obligations.EraseSectorErasesItsSector : Prop :=
  ∀ (s : State) (a : Addr) (n : Len) (rest : List ReqWord),
    s.rst = false → s.seq = .idle → s.requests = packRequest codeEraseSector a n :: rest → s.transport = .faithful →
    s.chip.wip = false → Mem.wf s.params.capacity s.chip.mem = true → a.toNat < s.params.capacity →
    0 < s.params.sectorSize →
      reaches (runSteps 15 s) fun t =>
        t.seq = .idle ∧ t.requests = rest ∧ t.wdata = s.wdata ∧ t.chip.wel = false ∧
          (∀ x, t.chip.mem.read x =
            if x / s.params.sectorSize = a.toNat / s.params.sectorSize then 0xFF#8 else s.chip.mem.read x) ∧
          t.events = s.events ++ [.sel, out 0x05#8, .xfer s.params.dummyTx (some t.srShadow), .des,
            .sel, out 0x06#8, .des,
            .sel, out 0xD8#8, out (a.extractLsb' 16 8), out (a.extractLsb' 8 8), out (a.extractLsb' 0 8), .des, .done]

/-- READ on an idle chip, any address and length in contract, 0 included: `len + 12` steps, one read-status frame and one read-data frame
however many pages it spans, done; the bytes pushed are those of the array in ascending order; the chip is unchanged; `cur_addr` has
advanced by `len` (R150 to R153). A chip that is busy at first is left out. -/
def Obligations.ReadDeliversTheArray : Prop :=
  ∀ (s : State) (a : Addr) (n : Len) (rest : List ReqWord),
    s.rst = false → s.seq = .idle → s.requests = packRequest codeRead a n :: rest → s.transport = .faithful →
    s.chip.wip = false → a.toNat < s.params.capacity → a.toNat + n.toNat ≤ s.params.capacity →
      reaches (runSteps (n.toNat + 12) s) fun t =>
        t.seq = .idle ∧ t.requests = rest ∧ t.chip = s.chip ∧ t.wdata = s.wdata ∧ t.completions = s.completions + 1 ∧
          t.curAddr = a + n ∧ t.remaining = 0#24 ∧
          t.readData = s.readData ++ (List.range n.toNat).map (fun k => s.chip.mem.read (a.toNat + k)) ∧
          ∃ ev, t.events = s.events ++ ev ∧
            framesOf ev = [[0x05#8, s.params.dummyTx], header 0x03#8 a ++ List.replicate n.toNat s.params.dummyTx]

/-- A WRITE in progress, on any chip that finishes at any time or never: every step keeps the bytes sent and taken, the counters, the
open frame and the array in line with each other, until the request is finished with every byte programmed and taken, or the
bounded variant gives up on this step, at its limit (R160, R163, R164, R168, R171, R246). That the array holds the bytes of closed frames
while the chip is busy is the reference model's choice (R222, log 14). -/
def Obligations.EveryStepOfAWriteKeepsItsProgress : Prop :=
  ∀ (m : Mem) (a : Nat) (data rest : List Byte) (s t : State) (j k : Nat),
    s.Inv → s.ChipQuiet → s.transport ≠ .unfaithful → s.rst = false → s.params.outOfContract = .refuse →
    s.params.capacity ≤ 2 ^ 24 → a + data.length ≤ s.params.capacity → data ≠ [] → s.Writing m a data rest j k →
    step s = .next t →
      (∃ j' k', t.Writing m a data rest j' k') ∨
      (t.seq = .fin ∧ t.wdata = rest ∧ ∀ x, t.chip.mem.read x = programmed m a data x) ∨
      (s.seq = .pDes ∧ s.wipSeen = true ∧ s.params.pollLimit = some s.pollCnt ∧ t.seq = .fin ∧ t.timeoutErr = true)

/-- A WRITE of any in-contract range on a chip that finishes its commands, sooner or later, all data supplied: the run ends; the array
holds old AND data in the range and is unchanged elsewhere; exactly the data are taken; and the frames sent are, for each chunk of the split,
some polls that read busy (none on a chip that finishes before the next step) and one that reads idle, one write-enable and one page-program
frame (R160 to R165, R225). In the bounded variant the chip must be one that finishes before the next step. That the array holds the last
chunk while the chip is busy is the reference model's choice (R222, log 14). -/
def Obligations.WriteProgramsTheWholeRange : Prop :=
  ∀ (s : State) (a : Addr) (n : Len) (rest : List ReqWord) (data more : List Byte),
    s.Inv → s.rst = false → s.seq = .idle → s.requests = packRequest codeWrite a n :: rest →
    s.TransportLive → s.TransportFaithful → s.ChipFinishes → (s.params.pollLimit = none ∨ s.pace = .prompt) →
    s.params.outOfContract = .refuse → s.params.capacity ≤ 2 ^ 24 → n ≠ 0#24 →
    a.toNat + n.toNat ≤ s.params.capacity → data.length = n.toNat → s.wdata = data ++ more →
      ∃ k, reaches (runSteps k s) fun t =>
        Ended [packRequest codeWrite a n] s t ∧ t.requests = rest ∧ t.wdata = more ∧
          (∀ x, t.chip.mem.read x = programmed s.chip.mem a.toNat data x) ∧
          ∃ ev ks, t.events = s.events ++ ev ∧ ks.length = (splitWrite n.toNat a n).length ∧
            (s.pace = .prompt → ∀ k ∈ ks, k = 0) ∧
            framesOf ev = writeFrames s.params.dummyTx ks (splitWrite n.toNat a n) data

/-- What is written to erased cells reads back: a WRITE and then a READ of the same range, with no WAIT between them, on a chip that finishes
its commands sooner or later, deliver the data, and the run has ended for the block and the chip (R66, R225, R277). In the bounded variant
the chip must be one that finishes before the next step. -/
def Obligations.WriteThenReadGivesTheDataBack : Prop :=
  ∀ (s : State) (a : Addr) (n : Len) (rest : List ReqWord) (data more : List Byte),
    s.Inv → s.rst = false → s.seq = .idle →
    s.requests = packRequest codeWrite a n :: packRequest codeRead a n :: rest →
    s.TransportLive → s.TransportFaithful → s.ChipFinishes → (s.params.pollLimit = none ∨ s.pace = .prompt) →
    s.params.outOfContract = .refuse → s.params.capacity ≤ 2 ^ 24 → n ≠ 0#24 →
    a.toNat + n.toNat ≤ s.params.capacity → data.length = n.toNat → s.wdata = data ++ more →
    Erased s.chip.mem a.toNat n.toNat →
      ∃ k, reaches (runSteps k s) fun t =>
        EndedWithChip [packRequest codeWrite a n, packRequest codeRead a n] s t ∧ t.requests = rest ∧
          t.readData = s.readData ++ data

/-- A chip that never finishes: without a limit, the block polls for ever. After every four steps it is about to poll again, has sent
one more read-status frame and nothing else, is busy, and has not signalled done (R133, R241). That the array of the busy chip stays is
the reference model's choice (R222, log 14). -/
def Obligations.HungChipIsPolledForEver : Prop :=
  ∀ (m : Nat) (s : State),
    s.rst = false → s.seq = .pSel → s.transport = .faithful → s.pace = .never → s.chip.wip = true →
    s.params.pollLimit = none →
      reaches (runSteps (4 * m) s) fun t =>
        t.seq = .pSel ∧ t.busy = true ∧ t.completions = s.completions ∧ t.requests = s.requests ∧ t.chip = s.chip ∧
          sameDatapath s t ∧
          ∃ ev, t.events = s.events ++ ev ∧ framesOf ev = List.replicate m [0x05#8, s.params.dummyTx]

/-- The bounded variant with limit `n`, `n` at least 1: any request that polls, on a chip that never finishes, sends `n` read-status frames
and gives up: `timeout_err` is set, done is signalled, no byte is delivered and none taken (R246, V51). That the array of the busy chip
stays is the reference model's choice (R222, log 14). -/
def Obligations.BoundedPollGivesUpAtItsLimit : Prop :=
  ∀ (s : State) (lim : Nat) (w : ReqWord) (rest : List ReqWord),
    s.rst = false → s.seq = .idle → s.requests = w :: rest → s.TransportLive → s.TransportFaithful →
    s.pace = .never → s.chip.wip = true → s.params.pollLimit = some lim → 1 ≤ lim →
    (s.params.outOfContract = .literal ∨ wordInContract s.params w = true) → (reqCode w).toNat ≤ 5 →
    (reqCode w = codeWrite → polls s (reqLen w)) →
      reaches (runSteps (4 * lim + 2) s) fun t =>
        t.seq = .idle ∧ t.timeoutErr = true ∧ t.requests = rest ∧ t.completions = s.completions + 1 ∧
          t.readData = s.readData ∧ t.wdata = s.wdata ∧ t.chip = s.chip ∧
          ∃ ev, t.events = s.events ++ ev ∧ framesOf ev = List.replicate lim [0x05#8, s.params.dummyTx]
end

