-- ==== Sys2Proof/Laws/Decode.lean ====
section
/-! SUPPORT. Fields of addresses and request words, and what the decoders can answer. -/

namespace Sys2Proof

open Machine

/-- An address is its three bytes (R83). -/
@[simp] theorem addrOfBytes_addrBytes (a : Addr) : addrOfBytes (addrByte2 a) (addrByte1 a) (addrByte0 a) = a := by
  unfold addrOfBytes addrByte2 addrByte1 addrByte0
  ext i hi
  simp only [BitVec.getElem_append, BitVec.getElem_extractLsb']
  grind

@[simp] theorem addrByte2_addrOfBytes (x y z : Byte) : addrByte2 (addrOfBytes x y z) = x := by
  unfold addrOfBytes addrByte2
  ext i hi
  simp only [BitVec.getElem_extractLsb', BitVec.getLsbD_append]
  grind

@[simp] theorem addrByte1_addrOfBytes (x y z : Byte) : addrByte1 (addrOfBytes x y z) = y := by
  unfold addrOfBytes addrByte1
  ext i hi
  simp only [BitVec.getElem_extractLsb', BitVec.getLsbD_append]
  grind

@[simp] theorem addrByte0_addrOfBytes (x y z : Byte) : addrByte0 (addrOfBytes x y z) = z := by
  unfold addrOfBytes addrByte0
  ext i hi
  simp only [BitVec.getElem_extractLsb', BitVec.getLsbD_append]
  grind

/-- The fields of a packed request word (R87). -/
@[simp] theorem reqCode_packRequest (c : Code) (a : Addr) (n : Len) : reqCode (packRequest c a n) = c := by
  unfold reqCode packRequest
  ext i hi
  simp only [BitVec.getElem_extractLsb', BitVec.getLsbD_append]
  grind

@[simp] theorem reqAddr_packRequest (c : Code) (a : Addr) (n : Len) : reqAddr (packRequest c a n) = a := by
  unfold reqAddr packRequest
  ext i hi
  simp only [BitVec.getElem_extractLsb', BitVec.getLsbD_append]
  grind

@[simp] theorem reqLen_packRequest (c : Code) (a : Addr) (n : Len) : reqLen (packRequest c a n) = n := by
  unfold reqLen packRequest
  ext i hi
  simp only [BitVec.getElem_extractLsb', BitVec.getLsbD_append]
  grind

/-- A request word is its three fields (R87). -/
@[simp] theorem packRequest_fields (w : ReqWord) : packRequest (reqCode w) (reqAddr w) (reqLen w) = w := by
  unfold packRequest reqCode reqAddr reqLen
  ext i hi
  simp only [BitVec.getElem_append, BitVec.getElem_extractLsb']
  grind

/-- The instructions that are frames. -/
def Instr.isFrame : Instr → Bool
  | .pp _ _ | .readData _ _ | .rdsr | .wren | .be | .se _ => true
  | .readReq _ _ | .writeReq _ _ | .eraseSectorReq _ _ | .eraseAllReq _ _ | .waitReq _ _ | .enableWriteReq _ _ => false

/-- Bytes decode to frames only. -/
theorem decode_frame_isFrame {bytes : List Byte} {i : Instr} (h : decode (.frame bytes) = .ok i) : i.isFrame = true := by
  simp only [decode, decodeFrame] at h
  repeat' split at h
  all_goals cases h
  all_goals rfl

/-- Words decode to requests only. -/
theorem decode_request_isFrame {w : ReqWord} {i : Instr} (h : decode (.request w) = .ok i) : i.isFrame = false := by
  simp only [decode, decodeRequest] at h
  repeat' split at h
  all_goals cases h
  all_goals rfl

/-- Which request a word is, by its code (R86). -/
theorem decode_request_cases {w : ReqWord} {i : Instr} (h : decode (.request w) = .ok i) :
    (reqCode w = codeRead ∧ i = .readReq (reqAddr w) (reqLen w)) ∨
      (reqCode w = codeWrite ∧ i = .writeReq (reqAddr w) (reqLen w)) ∨
      (reqCode w = codeEraseSector ∧ i = .eraseSectorReq (reqAddr w) (reqLen w)) ∨
      (reqCode w = codeEraseAll ∧ i = .eraseAllReq (reqAddr w) (reqLen w)) ∨
      (reqCode w = codeWait ∧ i = .waitReq (reqAddr w) (reqLen w)) ∨
      (reqCode w = codeEnableWrite ∧ i = .enableWriteReq (reqAddr w) (reqLen w)) := by
  simp only [decode, decodeRequest] at h
  repeat' split at h
  all_goals cases h
  all_goals simp_all

end Sys2Proof
end

