-- ==== Sys2Proof/Laws/Memory.lean ====
section
/-! SUPPORT. The array: reading after writing, erasing and programming, and that every operation keeps the canonical form. -/

namespace Sys2Proof.Machine

@[simp] theorem Mem.read_nil (a : Nat) : Mem.read [] a = erasedByte := rfl

theorem Mem.read_cell (k a : Nat) (b : Byte) (m : Mem) :
    Mem.read ((k, b) :: m) a = if k = a then b else Mem.read m a := rfl

theorem Mem.read_erased_of_below {m : Mem} {a : Nat} (h : ∀ c ∈ m, a < c.1) : m.read a = erasedByte := by
  induction m with
  | nil => rfl
  | cons c m ih =>
    obtain ⟨k, b⟩ := c
    have hk : a < k := h (k, b) (by simp)
    rw [Mem.read_cell, if_neg (by omega)]
    exact ih fun c hc => h c (by simp [hc])

theorem Mem.wf_cell {cap k : Nat} {b : Byte} {m : Mem} :
    Mem.wf cap ((k, b) :: m) = true ↔ k < cap ∧ b ≠ erasedByte ∧ (∀ c ∈ m, k < c.1) ∧ Mem.wf cap m = true := by
  simp [Mem.wf, and_assoc]

theorem Mem.wf_cons {cap k : Nat} {b : Byte} {m : Mem} (hk : k < cap) (hm : Mem.wf cap m = true)
    (hb : ∀ c ∈ m, k < c.1) : Mem.wf cap (Mem.cons k b m) = true := by
  unfold Mem.cons
  split
  · exact hm
  · exact Mem.wf_cell.mpr ⟨hk, ‹_›, hb, hm⟩

theorem Mem.mem_cons_of {a : Nat} {b : Byte} {m : Mem} {c : Nat × Byte} (h : c ∈ Mem.cons a b m) :
    c = (a, b) ∨ c ∈ m := by
  unfold Mem.cons at h
  split at h
  · exact .inr h
  · simpa using h

theorem Mem.mem_write_of {m : Mem} {a : Nat} {b : Byte} {c : Nat × Byte} (h : c ∈ Mem.write m a b) :
    c.1 = a ∨ c ∈ m := by
  induction m with
  | nil => rcases Mem.mem_cons_of h with h | h <;> simp_all
  | cons x m ih =>
    obtain ⟨k, v⟩ := x
    simp only [Mem.write] at h
    split at h
    · rcases Mem.mem_cons_of h with h | h <;> simp_all
    · split at h
      · rcases Mem.mem_cons_of h with h | h <;> simp_all
      · rcases List.mem_cons.mp h with h | h
        · simp_all
        · rcases ih h with h | h <;> simp_all

/-- A write inside the array keeps the canonical form. -/
theorem Mem.wf_write {cap : Nat} {m : Mem} {a : Nat} {b : Byte} (ha : a < cap) (hm : Mem.wf cap m = true) :
    Mem.wf cap (m.write a b) = true := by
  induction m with
  | nil => exact Mem.wf_cons ha hm (by simp)
  | cons x m ih =>
    obtain ⟨k, v⟩ := x
    obtain ⟨hk, hv, hlt, hm'⟩ := Mem.wf_cell.mp hm
    simp only [Mem.write]
    split
    · refine Mem.wf_cons ha hm fun c hc => ?_
      rcases List.mem_cons.mp hc with rfl | hc
      · assumption
      · exact Nat.lt_trans ‹_› (hlt c hc)
    · split
      · subst k; exact Mem.wf_cons ha hm' hlt
      · refine Mem.wf_cell.mpr ⟨hk, hv, fun c hc => ?_, ih hm'⟩
        rcases Mem.mem_write_of hc with h | h
        · omega
        · exact hlt c h

/-- Reading back what was written. -/
theorem Mem.read_write_same {cap : Nat} {m : Mem} (a : Nat) (b : Byte) (hm : Mem.wf cap m = true) :
    (m.write a b).read a = b := by
  induction m with
  | nil => simp only [Mem.write, Mem.cons]; split <;> simp_all [Mem.read]
  | cons x m ih =>
    obtain ⟨k, v⟩ := x
    obtain ⟨hk, hv, hlt, hm'⟩ := Mem.wf_cell.mp hm
    simp only [Mem.write, Mem.cons]
    split
    · split
      · rw [Mem.read_cell, if_neg (by omega), Mem.read_erased_of_below, ‹b = erasedByte›]
        exact fun c hc => Nat.lt_trans ‹_› (hlt c hc)
      · simp [Mem.read_cell]
    · split
      · subst k
        split
        · rw [Mem.read_erased_of_below hlt, ‹b = erasedByte›]
        · simp [Mem.read_cell]
      · rw [Mem.read_cell, if_neg (by omega)]; exact ih hm'

/-- A write leaves every other byte alone. -/
theorem Mem.read_write_other (m : Mem) {a x : Nat} (b : Byte) (h : x ≠ a) : (m.write a b).read x = m.read x := by
  induction m with
  | nil =>
    simp only [Mem.write, Mem.cons]
    split
    · rfl
    · rw [Mem.read_cell, if_neg (by omega)]
  | cons c m ih =>
    obtain ⟨k, v⟩ := c
    simp only [Mem.write, Mem.cons]
    split
    · split
      · rfl
      · rw [Mem.read_cell, if_neg (by omega)]
    · split
      · subst k
        have hx : ¬ a = x := by omega
        split
        · rw [Mem.read_cell, if_neg hx]
        · rw [Mem.read_cell, if_neg hx, Mem.read_cell, if_neg hx]
      · rw [Mem.read_cell, Mem.read_cell, ih]

/-- Erasing keeps the canonical form. -/
theorem Mem.wf_erase {cap : Nat} {m : Mem} (lo hi : Nat) (hm : Mem.wf cap m = true) :
    Mem.wf cap (m.erase lo hi) = true := by
  induction m with
  | nil => rfl
  | cons x m ih =>
    obtain ⟨k, v⟩ := x
    obtain ⟨hk, hv, hlt, hm'⟩ := Mem.wf_cell.mp hm
    have ih' := ih hm'
    unfold Mem.erase at ih' ⊢
    rw [List.filter_cons]
    split
    · exact Mem.wf_cell.mpr ⟨hk, hv, fun c hc => hlt c (List.mem_filter.mp hc).1, ih'⟩
    · exact ih'

/-- What an erased range reads as, and that nothing else changes (R218). -/
theorem Mem.read_erase {cap : Nat} {m : Mem} (lo hi x : Nat) (hm : Mem.wf cap m = true) :
    (m.erase lo hi).read x = if lo ≤ x ∧ x < hi then erasedByte else m.read x := by
  induction m with
  | nil => simp [Mem.erase]
  | cons c m ih =>
    obtain ⟨k, v⟩ := c
    obtain ⟨hk, hv, hlt, hm'⟩ := Mem.wf_cell.mp hm
    have ih' := ih hm'
    unfold Mem.erase at ih' ⊢
    rw [List.filter_cons]
    split
    · rename_i hkeep
      rw [Mem.read_cell, Mem.read_cell, ih']
      simp at hkeep
      by_cases hkx : k = x
      · subst k
        simp only [if_true]
        rw [if_neg]; omega
      · simp [hkx]
    · rename_i hdrop
      rw [Mem.read_cell, ih']
      simp at hdrop
      by_cases hkx : k = x
      · subst k
        rw [if_pos (by omega), if_pos (by omega)]
      · simp [hkx]

/-- Programming inside the array keeps the canonical form. -/
theorem Mem.wf_program {cap : Nat} (a : Addr) (d : List Byte) :
    ∀ (k : Nat) (m : Mem), (∀ j, j < d.length → programTarget a (k + j) < cap) → Mem.wf cap m = true →
      Mem.wf cap (m.program a k d) = true := by
  induction d with
  | nil => exact fun _ _ _ hm => hm
  | cons b d ih =>
    intro k m hin hm
    refine ih (k + 1) _ (fun j hj => ?_) (Mem.wf_write (by simpa using hin 0 (by simp)) hm)
    have := hin (j + 1) (by simpa using hj)
    rwa [show k + 1 + j = k + (j + 1) by omega]

/-- What programming leaves at each address (R217, R55): old AND data at the targets, everything else as it was. A frame has at most
256 data bytes, so no two share a target. -/
theorem Mem.read_program {cap : Nat} (a : Addr) (d : List Byte) : ∀ (m : Mem) (k : Nat), Mem.wf cap m = true →
    (∀ j, j < d.length → programTarget a (k + j) < cap) → k + d.length ≤ pageSize →
    (∀ j b, d[j]? = some b → (m.program a k d).read (programTarget a (k + j)) = m.read (programTarget a (k + j)) &&& b) ∧
      (∀ x, (∀ j, j < d.length → x ≠ programTarget a (k + j)) → (m.program a k d).read x = m.read x) := by
  induction d with
  | nil => intro m k _ _ _; simp [Mem.program]
  | cons b r ih =>
    intro m k hm h1 h2
    have h0 := h1 0 (by simp)
    simp only [List.length_cons, pageSize, Nat.add_zero] at h0 h2
    have next : ∀ j, k + 1 + j = k + (j + 1) := by omega
    obtain ⟨i1, i2⟩ := ih (m.write (programTarget a k) (m.read (programTarget a k) &&& b)) (k + 1)
      (Mem.wf_write h0 hm) (fun j hj => next j ▸ h1 (j + 1) (by simpa using hj)) (by simp only [pageSize]; omega)
    have hne : ∀ j, j < r.length → programTarget a (k + 1 + j) ≠ programTarget a k := by
      intro j hj
      unfold programTarget pageOffset pageSize
      omega
    constructor
    · intro j c hj
      cases j with
      | zero =>
        simp at hj; subst hj
        simp only [Mem.program, Nat.add_zero]
        rw [i2 _ fun j hj => (hne j hj).symm, Mem.read_write_same _ _ hm]
      | succ j =>
        have hj' : r[j]? = some c := by simpa using hj
        simp only [Mem.program]
        rw [← next j, i1 j c hj', Mem.read_write_other _ _ (hne j (List.getElem?_eq_some_iff.mp hj').1)]
    · intro x hx
      simp only [Mem.program]
      rw [i2 x fun j hj => next j ▸ hx (j + 1) (by simpa using hj)]
      exact Mem.read_write_other _ _ (hx 0 (by simp))

/-- Any list of cells gives an array in canonical form. -/
theorem Mem.wf_ofCells (cap : Nat) (cells : List (Nat × Byte)) : Mem.wf cap (Mem.ofCells cap cells) = true := by
  induction cells with
  | nil => rfl
  | cons c cells ih =>
    obtain ⟨a, b⟩ := c
    simp only [Mem.ofCells]
    split
    · exact Mem.wf_write ‹_› ih
    · exact ih

/-- Every reaction of the chip keeps the canonical form (R213 to R219). -/
theorem Chip.reaction_wf {p : Params} {c c' : Chip} (hm : Mem.wf p.capacity c.mem = true)
    (h : c.onRdsr = some c' ∨ c.onWren = some c' ∨ (∃ a n, c.onRead p a n = some c') ∨
      (∃ a d, c.onPP p a d = some c') ∨
      (∃ a, c.onSE p a = some c') ∨ c.onBE = some c') : Mem.wf p.capacity c'.mem = true := by
  rcases h with h | h | ⟨a, n, h⟩ | ⟨a, d, h⟩ | ⟨a, h⟩ | h
  · cases h; exact hm
  · unfold Chip.onWren at h; split at h
    · cases h
    · cases h; exact hm
  · unfold Chip.onRead at h; split at h
    · cases h; exact hm
    · cases h
  · unfold Chip.onPP at h
    split at h
    · cases h
    · split at h
      · unfold Chip.onEmptyPP at h; split at h <;> cases h <;> exact hm
      · split at h
        · rename_i hin
          cases h
          refine Mem.wf_program a d 0 _ (fun j hj => ?_) hm
          simpa using (List.all_eq_true.mp hin.2) j (List.mem_range.mpr hj)
        · cases h
  · unfold Chip.onSE at h; split at h
    · cases h; exact Mem.wf_erase _ _ hm
    · cases h
  · unfold Chip.onBE at h; split at h
    · cases h; rfl
    · cases h

/-- A frame cut by reset leaves the array in canonical form. -/
theorem State.wf_cutFrame {s : State} (h : Mem.wf s.params.capacity s.chip.mem = true) :
    Mem.wf s.params.capacity s.cutFrame.mem = true := by
  unfold State.cutFrame
  split
  · split
    · exact h
    · exact Mem.wf_ofCells _ _
  · exact h

/-- Whatever the chip makes of a frame, its array is in canonical form. -/
theorem State.wf_react {s : State} {r : Option Chip}
    (h : ∀ c, r = some c → Mem.wf s.params.capacity c.mem = true) :
    Mem.wf s.params.capacity (s.react r).mem = true := by
  unfold State.react
  split
  · exact Mem.wf_ofCells _ _
  · cases r with
    | none => exact Mem.wf_ofCells _ _
    | some c => exact h c rfl

end Sys2Proof.Machine
end

