-- ==== Sys2Proof/Laws/State.lean ====
section
/-! SUPPORT. One lemma per field per update of the state. -/

namespace Sys2Proof.Machine

/-! ## the environment's part of a step: `State.tick` -/

@[simp] theorem State.tick_params (s : State) : s.tick.params = s.params := rfl
@[simp] theorem State.tick_seq (s : State) : s.tick.seq = s.seq := rfl
@[simp] theorem State.tick_op (s : State) : s.tick.op = s.op := rfl
@[simp] theorem State.tick_curAddr (s : State) : s.tick.curAddr = s.curAddr := rfl
@[simp] theorem State.tick_remaining (s : State) : s.tick.remaining = s.remaining := rfl
@[simp] theorem State.tick_chunk (s : State) : s.tick.chunk = s.chunk := rfl
@[simp] theorem State.tick_srShadow (s : State) : s.tick.srShadow = s.srShadow := rfl
@[simp] theorem State.tick_btSelect (s : State) : s.tick.btSelect = s.btSelect := rfl
@[simp] theorem State.tick_pollCnt (s : State) : s.tick.pollCnt = s.pollCnt := rfl
@[simp] theorem State.tick_timeoutErr (s : State) : s.tick.timeoutErr = s.timeoutErr := rfl
@[simp] theorem State.tick_outstanding (s : State) : s.tick.outstanding = s.outstanding := rfl
@[simp] theorem State.tick_frame (s : State) : s.tick.frame = s.frame := rfl
@[simp] theorem State.tick_chip (s : State) : s.tick.chip = { s.chip with wip := s.chip.wip && !s.finishes } := rfl
@[simp] theorem State.tick_rst (s : State) : s.tick.rst = s.rst := rfl
@[simp] theorem State.tick_requests (s : State) : s.tick.requests = s.requests := rfl
@[simp] theorem State.tick_wdata (s : State) : s.tick.wdata = s.wdata := rfl
@[simp] theorem State.tick_transport (s : State) : s.tick.transport = s.transport := rfl
@[simp] theorem State.tick_pace (s : State) : s.tick.pace = s.pace := rfl
@[simp] theorem State.tick_draw (s : State) : s.tick.draw = s.draw + 1 := rfl
@[simp] theorem State.tick_events (s : State) : s.tick.events = s.events := rfl

/-! ## an event is seen: `State.observe` -/

@[simp] theorem State.observe_params (s : State) (e : Event) : (s.observe e).params = s.params := rfl
@[simp] theorem State.observe_seq (s : State) (e : Event) : (s.observe e).seq = s.seq := rfl
@[simp] theorem State.observe_op (s : State) (e : Event) : (s.observe e).op = s.op := rfl
@[simp] theorem State.observe_curAddr (s : State) (e : Event) : (s.observe e).curAddr = s.curAddr := rfl
@[simp] theorem State.observe_remaining (s : State) (e : Event) : (s.observe e).remaining = s.remaining := rfl
@[simp] theorem State.observe_chunk (s : State) (e : Event) : (s.observe e).chunk = s.chunk := rfl
@[simp] theorem State.observe_srShadow (s : State) (e : Event) : (s.observe e).srShadow = s.srShadow := rfl
@[simp] theorem State.observe_btSelect (s : State) (e : Event) : (s.observe e).btSelect = s.btSelect := rfl
@[simp] theorem State.observe_pollCnt (s : State) (e : Event) : (s.observe e).pollCnt = s.pollCnt := rfl
@[simp] theorem State.observe_timeoutErr (s : State) (e : Event) : (s.observe e).timeoutErr = s.timeoutErr := rfl
@[simp] theorem State.observe_outstanding (s : State) (e : Event) : (s.observe e).outstanding = s.outstanding := rfl
@[simp] theorem State.observe_frame (s : State) (e : Event) : (s.observe e).frame = s.frame := rfl
@[simp] theorem State.observe_chip (s : State) (e : Event) : (s.observe e).chip = s.chip := rfl
@[simp] theorem State.observe_rst (s : State) (e : Event) : (s.observe e).rst = s.rst := rfl
@[simp] theorem State.observe_requests (s : State) (e : Event) : (s.observe e).requests = s.requests := rfl
@[simp] theorem State.observe_wdata (s : State) (e : Event) : (s.observe e).wdata = s.wdata := rfl
@[simp] theorem State.observe_transport (s : State) (e : Event) : (s.observe e).transport = s.transport := rfl
@[simp] theorem State.observe_pace (s : State) (e : Event) : (s.observe e).pace = s.pace := rfl
@[simp] theorem State.observe_draw (s : State) (e : Event) : (s.observe e).draw = s.draw := rfl
@[simp] theorem State.observe_events (s : State) (e : Event) : (s.observe e).events = s.events ++ [e] := rfl

/-! ## the sequencer moves: `State.goTo` -/

@[simp] theorem State.goTo_params (s : State) (q : Seq) : (s.goTo q).params = s.params := rfl
@[simp] theorem State.goTo_seq (s : State) (q : Seq) : (s.goTo q).seq = q := rfl
@[simp] theorem State.goTo_op (s : State) (q : Seq) : (s.goTo q).op = s.op := rfl
@[simp] theorem State.goTo_curAddr (s : State) (q : Seq) : (s.goTo q).curAddr = s.curAddr := rfl
@[simp] theorem State.goTo_remaining (s : State) (q : Seq) : (s.goTo q).remaining = s.remaining := rfl
@[simp] theorem State.goTo_chunk (s : State) (q : Seq) : (s.goTo q).chunk = s.chunk := rfl
@[simp] theorem State.goTo_srShadow (s : State) (q : Seq) : (s.goTo q).srShadow = s.srShadow := rfl
@[simp] theorem State.goTo_btSelect (s : State) (q : Seq) : (s.goTo q).btSelect = s.btSelect := rfl
@[simp] theorem State.goTo_pollCnt (s : State) (q : Seq) : (s.goTo q).pollCnt = s.pollCnt := rfl
@[simp] theorem State.goTo_timeoutErr (s : State) (q : Seq) : (s.goTo q).timeoutErr = s.timeoutErr := rfl
@[simp] theorem State.goTo_outstanding (s : State) (q : Seq) : (s.goTo q).outstanding = s.outstanding := rfl
@[simp] theorem State.goTo_frame (s : State) (q : Seq) : (s.goTo q).frame = s.frame := rfl
@[simp] theorem State.goTo_chip (s : State) (q : Seq) : (s.goTo q).chip = s.chip := rfl
@[simp] theorem State.goTo_rst (s : State) (q : Seq) : (s.goTo q).rst = s.rst := rfl
@[simp] theorem State.goTo_requests (s : State) (q : Seq) : (s.goTo q).requests = s.requests := rfl
@[simp] theorem State.goTo_wdata (s : State) (q : Seq) : (s.goTo q).wdata = s.wdata := rfl
@[simp] theorem State.goTo_transport (s : State) (q : Seq) : (s.goTo q).transport = s.transport := rfl
@[simp] theorem State.goTo_pace (s : State) (q : Seq) : (s.goTo q).pace = s.pace := rfl
@[simp] theorem State.goTo_draw (s : State) (q : Seq) : (s.goTo q).draw = s.draw := rfl
@[simp] theorem State.goTo_events (s : State) (q : Seq) : (s.goTo q).events = s.events := rfl

/-! ## BusSelect(): `State.select` -/

@[simp] theorem State.select_params (s : State) : s.select.params = s.params := rfl
@[simp] theorem State.select_seq (s : State) : s.select.seq = s.seq := rfl
@[simp] theorem State.select_op (s : State) : s.select.op = s.op := rfl
@[simp] theorem State.select_curAddr (s : State) : s.select.curAddr = s.curAddr := rfl
@[simp] theorem State.select_remaining (s : State) : s.select.remaining = s.remaining := rfl
@[simp] theorem State.select_chunk (s : State) : s.select.chunk = s.chunk := rfl
@[simp] theorem State.select_srShadow (s : State) : s.select.srShadow = s.srShadow := rfl
@[simp] theorem State.select_btSelect (s : State) : s.select.btSelect = true := rfl
@[simp] theorem State.select_pollCnt (s : State) : s.select.pollCnt = s.pollCnt := rfl
@[simp] theorem State.select_timeoutErr (s : State) : s.select.timeoutErr = s.timeoutErr := rfl
@[simp] theorem State.select_outstanding (s : State) : s.select.outstanding = s.outstanding := rfl
@[simp] theorem State.select_frame (s : State) : s.select.frame = [] := rfl
@[simp] theorem State.select_chip (s : State) : s.select.chip = s.chip := rfl
@[simp] theorem State.select_rst (s : State) : s.select.rst = s.rst := rfl
@[simp] theorem State.select_requests (s : State) : s.select.requests = s.requests := rfl
@[simp] theorem State.select_wdata (s : State) : s.select.wdata = s.wdata := rfl
@[simp] theorem State.select_transport (s : State) : s.select.transport = s.transport := rfl
@[simp] theorem State.select_pace (s : State) : s.select.pace = s.pace := rfl
@[simp] theorem State.select_draw (s : State) : s.select.draw = s.draw := rfl
@[simp] theorem State.select_events (s : State) : s.select.events = s.events ++ [.sel] := rfl

/-! ## BusDeselect(): `State.deselect` -/

@[simp] theorem State.deselect_params (s : State) : s.deselect.params = s.params := rfl
@[simp] theorem State.deselect_seq (s : State) : s.deselect.seq = s.seq := rfl
@[simp] theorem State.deselect_op (s : State) : s.deselect.op = s.op := rfl
@[simp] theorem State.deselect_curAddr (s : State) : s.deselect.curAddr = s.curAddr := rfl
@[simp] theorem State.deselect_remaining (s : State) : s.deselect.remaining = s.remaining := rfl
@[simp] theorem State.deselect_chunk (s : State) : s.deselect.chunk = s.chunk := rfl
@[simp] theorem State.deselect_srShadow (s : State) : s.deselect.srShadow = s.srShadow := rfl
@[simp] theorem State.deselect_btSelect (s : State) : s.deselect.btSelect = false := rfl
@[simp] theorem State.deselect_pollCnt (s : State) : s.deselect.pollCnt = s.pollCnt := rfl
@[simp] theorem State.deselect_timeoutErr (s : State) : s.deselect.timeoutErr = s.timeoutErr := rfl
@[simp] theorem State.deselect_outstanding (s : State) : s.deselect.outstanding = s.outstanding := rfl
@[simp] theorem State.deselect_frame (s : State) : s.deselect.frame = [] := rfl
@[simp] theorem State.deselect_chip (s : State) : s.deselect.chip = s.chip := rfl
@[simp] theorem State.deselect_rst (s : State) : s.deselect.rst = s.rst := rfl
@[simp] theorem State.deselect_requests (s : State) : s.deselect.requests = s.requests := rfl
@[simp] theorem State.deselect_wdata (s : State) : s.deselect.wdata = s.wdata := rfl
@[simp] theorem State.deselect_transport (s : State) : s.deselect.transport = s.transport := rfl
@[simp] theorem State.deselect_pace (s : State) : s.deselect.pace = s.pace := rfl
@[simp] theorem State.deselect_draw (s : State) : s.deselect.draw = s.draw := rfl
@[simp] theorem State.deselect_events (s : State) : s.deselect.events = s.events ++ [.des] := rfl

/-! ## a transfer stays outstanding: `State.hold` -/

@[simp] theorem State.hold_params (s : State) (t : Byte) : (s.hold t).params = s.params := rfl
@[simp] theorem State.hold_seq (s : State) (t : Byte) : (s.hold t).seq = s.seq := rfl
@[simp] theorem State.hold_op (s : State) (t : Byte) : (s.hold t).op = s.op := rfl
@[simp] theorem State.hold_curAddr (s : State) (t : Byte) : (s.hold t).curAddr = s.curAddr := rfl
@[simp] theorem State.hold_remaining (s : State) (t : Byte) : (s.hold t).remaining = s.remaining := rfl
@[simp] theorem State.hold_chunk (s : State) (t : Byte) : (s.hold t).chunk = s.chunk := rfl
@[simp] theorem State.hold_srShadow (s : State) (t : Byte) : (s.hold t).srShadow = s.srShadow := rfl
@[simp] theorem State.hold_btSelect (s : State) (t : Byte) : (s.hold t).btSelect = s.btSelect := rfl
@[simp] theorem State.hold_pollCnt (s : State) (t : Byte) : (s.hold t).pollCnt = s.pollCnt := rfl
@[simp] theorem State.hold_timeoutErr (s : State) (t : Byte) : (s.hold t).timeoutErr = s.timeoutErr := rfl
@[simp] theorem State.hold_outstanding (s : State) (t : Byte) : (s.hold t).outstanding = some t := rfl
@[simp] theorem State.hold_frame (s : State) (t : Byte) : (s.hold t).frame = s.frame := rfl
@[simp] theorem State.hold_chip (s : State) (t : Byte) : (s.hold t).chip = s.chip := rfl
@[simp] theorem State.hold_rst (s : State) (t : Byte) : (s.hold t).rst = s.rst := rfl
@[simp] theorem State.hold_requests (s : State) (t : Byte) : (s.hold t).requests = s.requests := rfl
@[simp] theorem State.hold_wdata (s : State) (t : Byte) : (s.hold t).wdata = s.wdata := rfl
@[simp] theorem State.hold_transport (s : State) (t : Byte) : (s.hold t).transport = s.transport := rfl
@[simp] theorem State.hold_pace (s : State) (t : Byte) : (s.hold t).pace = s.pace := rfl
@[simp] theorem State.hold_draw (s : State) (t : Byte) : (s.hold t).draw = s.draw := rfl
@[simp] theorem State.hold_events (s : State) (t : Byte) : (s.hold t).events = s.events := rfl

/-! ## a transfer completes: `State.exchange` -/

@[simp] theorem State.exchange_params (s : State) (t : Byte) (rx : Option Byte) : (s.exchange t rx).params = s.params := rfl
@[simp] theorem State.exchange_seq (s : State) (t : Byte) (rx : Option Byte) : (s.exchange t rx).seq = s.seq := rfl
@[simp] theorem State.exchange_op (s : State) (t : Byte) (rx : Option Byte) : (s.exchange t rx).op = s.op := rfl
@[simp] theorem State.exchange_curAddr (s : State) (t : Byte) (rx : Option Byte) : (s.exchange t rx).curAddr = s.curAddr := rfl
@[simp] theorem State.exchange_remaining (s : State) (t : Byte) (rx : Option Byte) : (s.exchange t rx).remaining = s.remaining := rfl
@[simp] theorem State.exchange_chunk (s : State) (t : Byte) (rx : Option Byte) : (s.exchange t rx).chunk = s.chunk := rfl
@[simp] theorem State.exchange_srShadow (s : State) (t : Byte) (rx : Option Byte) : (s.exchange t rx).srShadow = s.srShadow := rfl
@[simp] theorem State.exchange_btSelect (s : State) (t : Byte) (rx : Option Byte) : (s.exchange t rx).btSelect = s.btSelect := rfl
@[simp] theorem State.exchange_pollCnt (s : State) (t : Byte) (rx : Option Byte) : (s.exchange t rx).pollCnt = s.pollCnt := rfl
@[simp] theorem State.exchange_timeoutErr (s : State) (t : Byte) (rx : Option Byte) : (s.exchange t rx).timeoutErr = s.timeoutErr := rfl
@[simp] theorem State.exchange_outstanding (s : State) (t : Byte) (rx : Option Byte) : (s.exchange t rx).outstanding = none := rfl
@[simp] theorem State.exchange_frame (s : State) (t : Byte) (rx : Option Byte) : (s.exchange t rx).frame = s.frame ++ [{ tx := t, rx := rx }] := rfl
@[simp] theorem State.exchange_chip (s : State) (t : Byte) (rx : Option Byte) : (s.exchange t rx).chip = s.chip := rfl
@[simp] theorem State.exchange_rst (s : State) (t : Byte) (rx : Option Byte) : (s.exchange t rx).rst = s.rst := rfl
@[simp] theorem State.exchange_requests (s : State) (t : Byte) (rx : Option Byte) : (s.exchange t rx).requests = s.requests := rfl
@[simp] theorem State.exchange_wdata (s : State) (t : Byte) (rx : Option Byte) : (s.exchange t rx).wdata = s.wdata := rfl
@[simp] theorem State.exchange_transport (s : State) (t : Byte) (rx : Option Byte) : (s.exchange t rx).transport = s.transport := rfl
@[simp] theorem State.exchange_pace (s : State) (t : Byte) (rx : Option Byte) : (s.exchange t rx).pace = s.pace := rfl
@[simp] theorem State.exchange_draw (s : State) (t : Byte) (rx : Option Byte) : (s.exchange t rx).draw = s.draw := rfl
@[simp] theorem State.exchange_events (s : State) (t : Byte) (rx : Option Byte) : (s.exchange t rx).events = s.events ++ [.xfer t rx] := rfl

/-! ## RDataPush: `State.push` -/

@[simp] theorem State.push_params (s : State) (b : Byte) : (s.push b).params = s.params := rfl
@[simp] theorem State.push_seq (s : State) (b : Byte) : (s.push b).seq = s.seq := rfl
@[simp] theorem State.push_op (s : State) (b : Byte) : (s.push b).op = s.op := rfl
@[simp] theorem State.push_curAddr (s : State) (b : Byte) : (s.push b).curAddr = s.curAddr := rfl
@[simp] theorem State.push_remaining (s : State) (b : Byte) : (s.push b).remaining = s.remaining := rfl
@[simp] theorem State.push_chunk (s : State) (b : Byte) : (s.push b).chunk = s.chunk := rfl
@[simp] theorem State.push_srShadow (s : State) (b : Byte) : (s.push b).srShadow = s.srShadow := rfl
@[simp] theorem State.push_btSelect (s : State) (b : Byte) : (s.push b).btSelect = s.btSelect := rfl
@[simp] theorem State.push_pollCnt (s : State) (b : Byte) : (s.push b).pollCnt = s.pollCnt := rfl
@[simp] theorem State.push_timeoutErr (s : State) (b : Byte) : (s.push b).timeoutErr = s.timeoutErr := rfl
@[simp] theorem State.push_outstanding (s : State) (b : Byte) : (s.push b).outstanding = s.outstanding := rfl
@[simp] theorem State.push_frame (s : State) (b : Byte) : (s.push b).frame = s.frame := rfl
@[simp] theorem State.push_chip (s : State) (b : Byte) : (s.push b).chip = s.chip := rfl
@[simp] theorem State.push_rst (s : State) (b : Byte) : (s.push b).rst = s.rst := rfl
@[simp] theorem State.push_requests (s : State) (b : Byte) : (s.push b).requests = s.requests := rfl
@[simp] theorem State.push_wdata (s : State) (b : Byte) : (s.push b).wdata = s.wdata := rfl
@[simp] theorem State.push_transport (s : State) (b : Byte) : (s.push b).transport = s.transport := rfl
@[simp] theorem State.push_pace (s : State) (b : Byte) : (s.push b).pace = s.pace := rfl
@[simp] theorem State.push_draw (s : State) (b : Byte) : (s.push b).draw = s.draw := rfl
@[simp] theorem State.push_events (s : State) (b : Byte) : (s.push b).events = s.events ++ [.pushed b] := rfl

/-! ## a data byte is counted: `State.countByte` -/

@[simp] theorem State.countByte_params (s : State) : s.countByte.params = s.params := rfl
@[simp] theorem State.countByte_seq (s : State) : s.countByte.seq = s.seq := rfl
@[simp] theorem State.countByte_op (s : State) : s.countByte.op = s.op := rfl
@[simp] theorem State.countByte_curAddr (s : State) : s.countByte.curAddr = s.curAddr + 1#24 := rfl
@[simp] theorem State.countByte_remaining (s : State) : s.countByte.remaining = s.remaining - 1#24 := rfl
@[simp] theorem State.countByte_chunk (s : State) : s.countByte.chunk = s.chunk := rfl
@[simp] theorem State.countByte_srShadow (s : State) : s.countByte.srShadow = s.srShadow := rfl
@[simp] theorem State.countByte_btSelect (s : State) : s.countByte.btSelect = s.btSelect := rfl
@[simp] theorem State.countByte_pollCnt (s : State) : s.countByte.pollCnt = s.pollCnt := rfl
@[simp] theorem State.countByte_timeoutErr (s : State) : s.countByte.timeoutErr = s.timeoutErr := rfl
@[simp] theorem State.countByte_outstanding (s : State) : s.countByte.outstanding = s.outstanding := rfl
@[simp] theorem State.countByte_frame (s : State) : s.countByte.frame = s.frame := rfl
@[simp] theorem State.countByte_chip (s : State) : s.countByte.chip = s.chip := rfl
@[simp] theorem State.countByte_rst (s : State) : s.countByte.rst = s.rst := rfl
@[simp] theorem State.countByte_requests (s : State) : s.countByte.requests = s.requests := rfl
@[simp] theorem State.countByte_wdata (s : State) : s.countByte.wdata = s.wdata := rfl
@[simp] theorem State.countByte_transport (s : State) : s.countByte.transport = s.transport := rfl
@[simp] theorem State.countByte_pace (s : State) : s.countByte.pace = s.pace := rfl
@[simp] theorem State.countByte_draw (s : State) : s.countByte.draw = s.draw := rfl
@[simp] theorem State.countByte_events (s : State) : s.countByte.events = s.events := rfl

/-! ## a chunk byte is counted: `State.countChunk` -/

@[simp] theorem State.countChunk_params (s : State) : s.countChunk.params = s.params := rfl
@[simp] theorem State.countChunk_seq (s : State) : s.countChunk.seq = s.seq := rfl
@[simp] theorem State.countChunk_op (s : State) : s.countChunk.op = s.op := rfl
@[simp] theorem State.countChunk_curAddr (s : State) : s.countChunk.curAddr = s.curAddr := rfl
@[simp] theorem State.countChunk_remaining (s : State) : s.countChunk.remaining = s.remaining := rfl
@[simp] theorem State.countChunk_chunk (s : State) : s.countChunk.chunk = s.chunk - 1#9 := rfl
@[simp] theorem State.countChunk_srShadow (s : State) : s.countChunk.srShadow = s.srShadow := rfl
@[simp] theorem State.countChunk_btSelect (s : State) : s.countChunk.btSelect = s.btSelect := rfl
@[simp] theorem State.countChunk_pollCnt (s : State) : s.countChunk.pollCnt = s.pollCnt := rfl
@[simp] theorem State.countChunk_timeoutErr (s : State) : s.countChunk.timeoutErr = s.timeoutErr := rfl
@[simp] theorem State.countChunk_outstanding (s : State) : s.countChunk.outstanding = s.outstanding := rfl
@[simp] theorem State.countChunk_frame (s : State) : s.countChunk.frame = s.frame := rfl
@[simp] theorem State.countChunk_chip (s : State) : s.countChunk.chip = s.chip := rfl
@[simp] theorem State.countChunk_rst (s : State) : s.countChunk.rst = s.rst := rfl
@[simp] theorem State.countChunk_requests (s : State) : s.countChunk.requests = s.requests := rfl
@[simp] theorem State.countChunk_wdata (s : State) : s.countChunk.wdata = s.wdata := rfl
@[simp] theorem State.countChunk_transport (s : State) : s.countChunk.transport = s.transport := rfl
@[simp] theorem State.countChunk_pace (s : State) : s.countChunk.pace = s.pace := rfl
@[simp] theorem State.countChunk_draw (s : State) : s.countChunk.draw = s.draw := rfl
@[simp] theorem State.countChunk_events (s : State) : s.countChunk.events = s.events := rfl

/-! ## acceptance loads the request: `State.load` -/

@[simp] theorem State.load_params (s : State) (c : Code) (a : Addr) (n : Len) : (s.load c a n).params = s.params := rfl
@[simp] theorem State.load_seq (s : State) (c : Code) (a : Addr) (n : Len) : (s.load c a n).seq = s.seq := rfl
@[simp] theorem State.load_op (s : State) (c : Code) (a : Addr) (n : Len) : (s.load c a n).op = c := rfl
@[simp] theorem State.load_curAddr (s : State) (c : Code) (a : Addr) (n : Len) : (s.load c a n).curAddr = a := rfl
@[simp] theorem State.load_remaining (s : State) (c : Code) (a : Addr) (n : Len) : (s.load c a n).remaining = n := rfl
@[simp] theorem State.load_chunk (s : State) (c : Code) (a : Addr) (n : Len) : (s.load c a n).chunk = s.chunk := rfl
@[simp] theorem State.load_srShadow (s : State) (c : Code) (a : Addr) (n : Len) : (s.load c a n).srShadow = s.srShadow := rfl
@[simp] theorem State.load_btSelect (s : State) (c : Code) (a : Addr) (n : Len) : (s.load c a n).btSelect = s.btSelect := rfl
@[simp] theorem State.load_pollCnt (s : State) (c : Code) (a : Addr) (n : Len) : (s.load c a n).pollCnt = s.pollCnt := rfl
@[simp] theorem State.load_timeoutErr (s : State) (c : Code) (a : Addr) (n : Len) : (s.load c a n).timeoutErr = s.timeoutErr := rfl
@[simp] theorem State.load_outstanding (s : State) (c : Code) (a : Addr) (n : Len) : (s.load c a n).outstanding = s.outstanding := rfl
@[simp] theorem State.load_frame (s : State) (c : Code) (a : Addr) (n : Len) : (s.load c a n).frame = s.frame := rfl
@[simp] theorem State.load_chip (s : State) (c : Code) (a : Addr) (n : Len) : (s.load c a n).chip = s.chip := rfl
@[simp] theorem State.load_rst (s : State) (c : Code) (a : Addr) (n : Len) : (s.load c a n).rst = s.rst := rfl
@[simp] theorem State.load_requests (s : State) (c : Code) (a : Addr) (n : Len) : (s.load c a n).requests = s.requests := rfl
@[simp] theorem State.load_wdata (s : State) (c : Code) (a : Addr) (n : Len) : (s.load c a n).wdata = s.wdata := rfl
@[simp] theorem State.load_transport (s : State) (c : Code) (a : Addr) (n : Len) : (s.load c a n).transport = s.transport := rfl
@[simp] theorem State.load_pace (s : State) (c : Code) (a : Addr) (n : Len) : (s.load c a n).pace = s.pace := rfl
@[simp] theorem State.load_draw (s : State) (c : Code) (a : Addr) (n : Len) : (s.load c a n).draw = s.draw := rfl
@[simp] theorem State.load_events (s : State) (c : Code) (a : Addr) (n : Len) : (s.load c a n).events = s.events := rfl

/-! ## Poll() is entered: `State.enterPoll` -/

@[simp] theorem State.enterPoll_params (s : State) : s.enterPoll.params = s.params := rfl
@[simp] theorem State.enterPoll_seq (s : State) : s.enterPoll.seq = .pSel := rfl
@[simp] theorem State.enterPoll_op (s : State) : s.enterPoll.op = s.op := rfl
@[simp] theorem State.enterPoll_curAddr (s : State) : s.enterPoll.curAddr = s.curAddr := rfl
@[simp] theorem State.enterPoll_remaining (s : State) : s.enterPoll.remaining = s.remaining := rfl
@[simp] theorem State.enterPoll_chunk (s : State) : s.enterPoll.chunk = s.chunk := rfl
@[simp] theorem State.enterPoll_srShadow (s : State) : s.enterPoll.srShadow = s.srShadow := rfl
@[simp] theorem State.enterPoll_btSelect (s : State) : s.enterPoll.btSelect = s.btSelect := rfl
@[simp] theorem State.enterPoll_pollCnt (s : State) : s.enterPoll.pollCnt = 0 := rfl
@[simp] theorem State.enterPoll_timeoutErr (s : State) : s.enterPoll.timeoutErr = s.timeoutErr := rfl
@[simp] theorem State.enterPoll_outstanding (s : State) : s.enterPoll.outstanding = s.outstanding := rfl
@[simp] theorem State.enterPoll_frame (s : State) : s.enterPoll.frame = s.frame := rfl
@[simp] theorem State.enterPoll_chip (s : State) : s.enterPoll.chip = s.chip := rfl
@[simp] theorem State.enterPoll_rst (s : State) : s.enterPoll.rst = s.rst := rfl
@[simp] theorem State.enterPoll_requests (s : State) : s.enterPoll.requests = s.requests := rfl
@[simp] theorem State.enterPoll_wdata (s : State) : s.enterPoll.wdata = s.wdata := rfl
@[simp] theorem State.enterPoll_transport (s : State) : s.enterPoll.transport = s.transport := rfl
@[simp] theorem State.enterPoll_pace (s : State) : s.enterPoll.pace = s.pace := rfl
@[simp] theorem State.enterPoll_draw (s : State) : s.enterPoll.draw = s.draw := rfl
@[simp] theorem State.enterPoll_events (s : State) : s.enterPoll.events = s.events := rfl

/-! ## a frame is closed: `State.closeFrame` -/

@[simp] theorem State.closeFrame_params (s : State) (r : Option Chip) : (s.closeFrame r).params = s.params := rfl
@[simp] theorem State.closeFrame_seq (s : State) (r : Option Chip) : (s.closeFrame r).seq = s.seq := rfl
@[simp] theorem State.closeFrame_op (s : State) (r : Option Chip) : (s.closeFrame r).op = s.op := rfl
@[simp] theorem State.closeFrame_curAddr (s : State) (r : Option Chip) : (s.closeFrame r).curAddr = s.curAddr := rfl
@[simp] theorem State.closeFrame_remaining (s : State) (r : Option Chip) : (s.closeFrame r).remaining = s.remaining := rfl
@[simp] theorem State.closeFrame_chunk (s : State) (r : Option Chip) : (s.closeFrame r).chunk = s.chunk := rfl
@[simp] theorem State.closeFrame_srShadow (s : State) (r : Option Chip) : (s.closeFrame r).srShadow = s.srShadow := rfl
@[simp] theorem State.closeFrame_btSelect (s : State) (r : Option Chip) : (s.closeFrame r).btSelect = false := rfl
@[simp] theorem State.closeFrame_pollCnt (s : State) (r : Option Chip) : (s.closeFrame r).pollCnt = s.pollCnt := rfl
@[simp] theorem State.closeFrame_timeoutErr (s : State) (r : Option Chip) : (s.closeFrame r).timeoutErr = s.timeoutErr := rfl
@[simp] theorem State.closeFrame_outstanding (s : State) (r : Option Chip) : (s.closeFrame r).outstanding = s.outstanding := rfl
@[simp] theorem State.closeFrame_frame (s : State) (r : Option Chip) : (s.closeFrame r).frame = [] := rfl
@[simp] theorem State.closeFrame_chip (s : State) (r : Option Chip) : (s.closeFrame r).chip = s.react r := rfl
@[simp] theorem State.closeFrame_rst (s : State) (r : Option Chip) : (s.closeFrame r).rst = s.rst := rfl
@[simp] theorem State.closeFrame_requests (s : State) (r : Option Chip) : (s.closeFrame r).requests = s.requests := rfl
@[simp] theorem State.closeFrame_wdata (s : State) (r : Option Chip) : (s.closeFrame r).wdata = s.wdata := rfl
@[simp] theorem State.closeFrame_transport (s : State) (r : Option Chip) : (s.closeFrame r).transport = s.transport := rfl
@[simp] theorem State.closeFrame_pace (s : State) (r : Option Chip) : (s.closeFrame r).pace = s.pace := rfl
@[simp] theorem State.closeFrame_draw (s : State) (r : Option Chip) : (s.closeFrame r).draw = s.draw := rfl
@[simp] theorem State.closeFrame_events (s : State) (r : Option Chip) : (s.closeFrame r).events = s.events ++ [.des] := rfl

/-! ## raise PollTimeout: `State.raisePollTimeout` -/

@[simp] theorem State.raisePollTimeout_params (s : State) : s.raisePollTimeout.params = s.params := rfl
@[simp] theorem State.raisePollTimeout_seq (s : State) : s.raisePollTimeout.seq = .fin := rfl
@[simp] theorem State.raisePollTimeout_op (s : State) : s.raisePollTimeout.op = s.op := rfl
@[simp] theorem State.raisePollTimeout_curAddr (s : State) : s.raisePollTimeout.curAddr = s.curAddr := rfl
@[simp] theorem State.raisePollTimeout_remaining (s : State) : s.raisePollTimeout.remaining = s.remaining := rfl
@[simp] theorem State.raisePollTimeout_chunk (s : State) : s.raisePollTimeout.chunk = s.chunk := rfl
@[simp] theorem State.raisePollTimeout_srShadow (s : State) : s.raisePollTimeout.srShadow = s.srShadow := rfl
@[simp] theorem State.raisePollTimeout_btSelect (s : State) : s.raisePollTimeout.btSelect = s.btSelect := rfl
@[simp] theorem State.raisePollTimeout_pollCnt (s : State) : s.raisePollTimeout.pollCnt = s.pollCnt := rfl
@[simp] theorem State.raisePollTimeout_timeoutErr (s : State) : s.raisePollTimeout.timeoutErr = true := rfl
@[simp] theorem State.raisePollTimeout_outstanding (s : State) : s.raisePollTimeout.outstanding = s.outstanding := rfl
@[simp] theorem State.raisePollTimeout_frame (s : State) : s.raisePollTimeout.frame = s.frame := rfl
@[simp] theorem State.raisePollTimeout_chip (s : State) : s.raisePollTimeout.chip = s.chip := rfl
@[simp] theorem State.raisePollTimeout_rst (s : State) : s.raisePollTimeout.rst = s.rst := rfl
@[simp] theorem State.raisePollTimeout_requests (s : State) : s.raisePollTimeout.requests = s.requests := rfl
@[simp] theorem State.raisePollTimeout_wdata (s : State) : s.raisePollTimeout.wdata = s.wdata := rfl
@[simp] theorem State.raisePollTimeout_transport (s : State) : s.raisePollTimeout.transport = s.transport := rfl
@[simp] theorem State.raisePollTimeout_pace (s : State) : s.raisePollTimeout.pace = s.pace := rfl
@[simp] theorem State.raisePollTimeout_draw (s : State) : s.raisePollTimeout.draw = s.draw := rfl
@[simp] theorem State.raisePollTimeout_events (s : State) : s.raisePollTimeout.events = s.events := rfl

/-! ## a clock edge with rst = 1: `State.resetBlock` -/

@[simp] theorem State.resetBlock_params (s : State) : s.resetBlock.params = s.params := rfl
@[simp] theorem State.resetBlock_seq (s : State) : s.resetBlock.seq = .idle := rfl
@[simp] theorem State.resetBlock_op (s : State) : s.resetBlock.op = Config.freeOp s.draw := rfl
@[simp] theorem State.resetBlock_curAddr (s : State) : s.resetBlock.curAddr = Config.freeAddr s.draw := rfl
@[simp] theorem State.resetBlock_remaining (s : State) : s.resetBlock.remaining = Config.freeRemaining s.draw := rfl
@[simp] theorem State.resetBlock_chunk (s : State) : s.resetBlock.chunk = Config.freeChunk s.draw := rfl
@[simp] theorem State.resetBlock_srShadow (s : State) : s.resetBlock.srShadow = Config.freeShadow s.draw := rfl
@[simp] theorem State.resetBlock_btSelect (s : State) : s.resetBlock.btSelect = false := rfl
@[simp] theorem State.resetBlock_pollCnt (s : State) : s.resetBlock.pollCnt = 0 := rfl
@[simp] theorem State.resetBlock_timeoutErr (s : State) : s.resetBlock.timeoutErr = false := rfl
@[simp] theorem State.resetBlock_outstanding (s : State) : s.resetBlock.outstanding = none := rfl
@[simp] theorem State.resetBlock_frame (s : State) : s.resetBlock.frame = [] := rfl
@[simp] theorem State.resetBlock_chip (s : State) : s.resetBlock.chip = s.cutFrame := rfl
@[simp] theorem State.resetBlock_rst (s : State) : s.resetBlock.rst = s.rst := rfl
@[simp] theorem State.resetBlock_requests (s : State) : s.resetBlock.requests = s.requests := rfl
@[simp] theorem State.resetBlock_wdata (s : State) : s.resetBlock.wdata = s.wdata := rfl
@[simp] theorem State.resetBlock_transport (s : State) : s.resetBlock.transport = s.transport := rfl
@[simp] theorem State.resetBlock_pace (s : State) : s.resetBlock.pace = s.pace := rfl
@[simp] theorem State.resetBlock_draw (s : State) : s.resetBlock.draw = s.draw := rfl
@[simp] theorem State.resetBlock_events (s : State) : s.resetBlock.events = if s.btSelect then s.events ++ [.des] else s.events := rfl

/-! ## The status byte of RDSR and the chunk of W_DES, which depend on the state -/

/-- RDSR touches `sr_shadow` alone. -/
theorem State.latchStatus_eq (s : State) : s.latchStatus = { s with srShadow := s.latchStatus.srShadow } := by
  unfold State.latchStatus; split <;> rfl

/-- The status byte of a complete RDSR frame is what was received in its position 1 (R111). -/
theorem State.latchStatus_of_frame {s : State} {x : Exchange} {t st : Byte}
    (h : s.frame = [x, { tx := t, rx := some st }]) : s.latchStatus = { s with srShadow := st } := by
  simp [State.latchStatus, h]

/-- Loading the chunk touches `chunk` alone. -/
theorem State.loadChunk_eq (s : State) : s.loadChunk = { s with chunk := s.loadChunk.chunk } := by
  unfold State.loadChunk; split <;> rfl

@[simp] theorem State.latchStatus_params (s : State) : s.latchStatus.params = s.params := by rw [State.latchStatus_eq]
@[simp] theorem State.latchStatus_seq (s : State) : s.latchStatus.seq = s.seq := by rw [State.latchStatus_eq]
@[simp] theorem State.latchStatus_op (s : State) : s.latchStatus.op = s.op := by rw [State.latchStatus_eq]
@[simp] theorem State.latchStatus_curAddr (s : State) : s.latchStatus.curAddr = s.curAddr := by rw [State.latchStatus_eq]
@[simp] theorem State.latchStatus_remaining (s : State) : s.latchStatus.remaining = s.remaining := by rw [State.latchStatus_eq]
@[simp] theorem State.latchStatus_chunk (s : State) : s.latchStatus.chunk = s.chunk := by rw [State.latchStatus_eq]
@[simp] theorem State.latchStatus_btSelect (s : State) : s.latchStatus.btSelect = s.btSelect := by rw [State.latchStatus_eq]
@[simp] theorem State.latchStatus_pollCnt (s : State) : s.latchStatus.pollCnt = s.pollCnt := by rw [State.latchStatus_eq]
@[simp] theorem State.latchStatus_timeoutErr (s : State) : s.latchStatus.timeoutErr = s.timeoutErr := by rw [State.latchStatus_eq]
@[simp] theorem State.latchStatus_outstanding (s : State) : s.latchStatus.outstanding = s.outstanding := by rw [State.latchStatus_eq]
@[simp] theorem State.latchStatus_frame (s : State) : s.latchStatus.frame = s.frame := by rw [State.latchStatus_eq]
@[simp] theorem State.latchStatus_chip (s : State) : s.latchStatus.chip = s.chip := by rw [State.latchStatus_eq]
@[simp] theorem State.latchStatus_rst (s : State) : s.latchStatus.rst = s.rst := by rw [State.latchStatus_eq]
@[simp] theorem State.latchStatus_requests (s : State) : s.latchStatus.requests = s.requests := by rw [State.latchStatus_eq]
@[simp] theorem State.latchStatus_wdata (s : State) : s.latchStatus.wdata = s.wdata := by rw [State.latchStatus_eq]
@[simp] theorem State.latchStatus_transport (s : State) : s.latchStatus.transport = s.transport := by rw [State.latchStatus_eq]
@[simp] theorem State.latchStatus_pace (s : State) : s.latchStatus.pace = s.pace := by rw [State.latchStatus_eq]
@[simp] theorem State.latchStatus_draw (s : State) : s.latchStatus.draw = s.draw := by rw [State.latchStatus_eq]
@[simp] theorem State.latchStatus_events (s : State) : s.latchStatus.events = s.events := by rw [State.latchStatus_eq]

@[simp] theorem State.loadChunk_params (s : State) : s.loadChunk.params = s.params := by rw [State.loadChunk_eq]
@[simp] theorem State.loadChunk_seq (s : State) : s.loadChunk.seq = s.seq := by rw [State.loadChunk_eq]
@[simp] theorem State.loadChunk_op (s : State) : s.loadChunk.op = s.op := by rw [State.loadChunk_eq]
@[simp] theorem State.loadChunk_curAddr (s : State) : s.loadChunk.curAddr = s.curAddr := by rw [State.loadChunk_eq]
@[simp] theorem State.loadChunk_remaining (s : State) : s.loadChunk.remaining = s.remaining := by rw [State.loadChunk_eq]
@[simp] theorem State.loadChunk_srShadow (s : State) : s.loadChunk.srShadow = s.srShadow := by rw [State.loadChunk_eq]
@[simp] theorem State.loadChunk_btSelect (s : State) : s.loadChunk.btSelect = s.btSelect := by rw [State.loadChunk_eq]
@[simp] theorem State.loadChunk_pollCnt (s : State) : s.loadChunk.pollCnt = s.pollCnt := by rw [State.loadChunk_eq]
@[simp] theorem State.loadChunk_timeoutErr (s : State) : s.loadChunk.timeoutErr = s.timeoutErr := by rw [State.loadChunk_eq]
@[simp] theorem State.loadChunk_outstanding (s : State) : s.loadChunk.outstanding = s.outstanding := by rw [State.loadChunk_eq]
@[simp] theorem State.loadChunk_frame (s : State) : s.loadChunk.frame = s.frame := by rw [State.loadChunk_eq]
@[simp] theorem State.loadChunk_chip (s : State) : s.loadChunk.chip = s.chip := by rw [State.loadChunk_eq]
@[simp] theorem State.loadChunk_rst (s : State) : s.loadChunk.rst = s.rst := by rw [State.loadChunk_eq]
@[simp] theorem State.loadChunk_requests (s : State) : s.loadChunk.requests = s.requests := by rw [State.loadChunk_eq]
@[simp] theorem State.loadChunk_wdata (s : State) : s.loadChunk.wdata = s.wdata := by rw [State.loadChunk_eq]
@[simp] theorem State.loadChunk_transport (s : State) : s.loadChunk.transport = s.transport := by rw [State.loadChunk_eq]
@[simp] theorem State.loadChunk_pace (s : State) : s.loadChunk.pace = s.pace := by rw [State.loadChunk_eq]
@[simp] theorem State.loadChunk_draw (s : State) : s.loadChunk.draw = s.draw := by rw [State.loadChunk_eq]
@[simp] theorem State.loadChunk_events (s : State) : s.loadChunk.events = s.events := by rw [State.loadChunk_eq]

end Sys2Proof.Machine
end

