-- ==== Sys2Proof/Laws/Ops.lean ====
section
/-! SUPPORT. What each shared operation can do, said once. -/

namespace Sys2Proof.Machine

@[simp] theorem andThen_next (s : State) (f : State → Host.Outcome State Fault Refusal) : andThen (.next s) f = f s := rfl
@[simp] theorem andThen_fault (r : Fault) (f : State → Host.Outcome State Fault Refusal) :
    andThen (.fault r) f = .fault r := rfl
@[simp] theorem andThen_refused (r : Refusal) (f : State → Host.Outcome State Fault Refusal) :
    andThen (.refused r) f = .refused r := rfl

/-- A next state of a composition comes through a next state of its first part. -/
theorem andThen_eq_next {o : Host.Outcome State Fault Refusal} {f : State → Host.Outcome State Fault Refusal} {t : State}
    (h : andThen o f = .next t) : ∃ u, o = .next u ∧ f u = .next t := by
  cases o with
  | next u => exact ⟨u, rfl, h⟩
  | fault r => cases h
  | refused r => cases h

/-! ## The environment and the chip -/

/-- The environment's part of a step can only lower the busy bit. -/
@[simp] theorem State.tick_mem (s : State) : s.tick.chip.mem = s.chip.mem := rfl
@[simp] theorem State.tick_wel (s : State) : s.tick.chip.wel = s.chip.wel := rfl
theorem State.tick_wip_of_idle {s : State} (h : s.chip.wip = false) : s.tick.chip.wip = false := by simp [h]

/-- An idle chip is untouched by the environment (R214). -/
theorem State.tick_chip_of_idle {s : State} (h : s.chip.wip = false) : s.tick.chip = s.chip := by
  cases hc : s.chip; simp_all

/-- A chip that finishes at once is idle after the environment's part. -/
theorem State.tick_wip_of_prompt {s : State} (h : s.pace = .prompt) : s.tick.chip.wip = false := by
  simp [State.finishes, h]

/-- A hung chip is untouched by the environment. -/
theorem State.tick_chip_of_never {s : State} (h : s.pace = .never) : s.tick.chip = s.chip := by
  simp [State.finishes, h]

/-- Where frames are delivered and the spec gives a reaction, the chip takes it. -/
@[simp] theorem State.react_some {s : State} {c : Chip} (h : s.transport ≠ .unfaithful) : s.react (some c) = c := by
  simp [State.react, h]

/-- Bit 0 of a status byte is the busy bit (R213). -/
theorem statusByte_bit0 (w : Bool) (n : Nat) : (statusByte w n).getLsbD 0 = w := by
  unfold statusByte
  rw [BitVec.getLsbD_append]
  cases w <;> rfl

/-- A command already started goes on through a reset (R262). -/
theorem State.cutFrame_of_busy {s : State} (h : s.chip.wip = true) :
    s.cutFrame.mem = s.chip.mem ∧ s.cutFrame.wip = true := by
  unfold State.cutFrame; simp only [h, if_true]; split <;> simp [h]

/-- Without an open frame a reset does not touch the chip (R262). -/
theorem State.cutFrame_of_closed {s : State} (h : s.btSelect = false) : s.cutFrame = s.chip := by
  simp [State.cutFrame, h]

/-- An idle chip is unchanged by a READ inside the array (R216). -/
theorem Chip.onRead_inside {p : Params} {a : Addr} {n : Nat} {c : Chip} (hw : c.wip = false)
    (h : rangeInContract p a n = true) : c.onRead p a n = some c := by
  simp [Chip.onRead, hw, h]

/-! ## Transfers -/

@[simp] theorem State.sent_exchange (s : State) (t : Byte) (rx : Option Byte) :
    (s.exchange t rx).sent = s.sent ++ [t] := by simp [State.sent]

@[simp] theorem State.sent_select (s : State) : s.select.sent = [] := rfl

/-- A transfer out either completes or is held. -/
theorem transferOut_cases (t : Byte) (f : State → State) (s : State) :
    (s.transport = .stalled ∧ transferOut t f s = s.hold t) ∨
      (s.transport ≠ .stalled ∧ transferOut t f s = f (s.exchange t none)) := by
  unfold transferOut; split <;> simp_all

/-- A transfer in either completes with the byte received or is held. -/
theorem transferIn_cases (f : Byte → State → State) (s : State) :
    (s.transport = .stalled ∧ transferIn f s = s.hold s.params.dummyTx) ∨
      (s.transport ≠ .stalled ∧
        transferIn f s = f s.received (s.exchange s.params.dummyTx (some s.received))) := by
  unfold transferIn; split <;> simp_all

/-- The status exchange of a delivered RDSR receives the busy bit (R213). -/
theorem State.received_status {s : State} (ht : s.transport ≠ .unfaithful) (h : s.sent = [opcRDSR]) :
    s.received.getLsbD 0 = s.chip.wip := by
  have hr : s.received = statusByte s.chip.wip s.draw := by simp [State.received, ht, h, chipAnswer]
  rw [hr, statusByte_bit0]

/-- A data exchange of a delivered READ to an idle chip receives the byte of the array (R216). -/
theorem State.received_data {s : State} {a : Addr} {data : List Byte} (ht : s.transport ≠ .unfaithful)
    (h : s.sent = header opcREAD a ++ data) (hw : s.chip.wip = false) (hin : a.toNat + data.length < s.params.capacity) :
    s.received = s.chip.mem.read (a.toNat + data.length) := by
  simp [State.received, ht, h, header, chipAnswer, hw, hin]

/-! ## Counters -/

theorem Len.toNat_pred {n : Len} (h : n ≠ 0#24) : (n - 1#24).toNat = n.toNat - 1 := by
  have : n.toNat ≠ 0 := fun hz => h (by apply BitVec.eq_of_toNat_eq; simpa using hz)
  bv_omega

theorem chunk_toNat_pred {n : BitVec 9} (h : 1 ≤ n.toNat) : (n - 1#9).toNat = n.toNat - 1 := by bv_omega

theorem chunkSize_le_page (a : Addr) (n : Len) : chunkSize a n ≤ 256 := by unfold chunkSize pageSize; omega

theorem chunkSize_le_remaining (a : Addr) (n : Len) : chunkSize a n ≤ n.toNat := by unfold chunkSize; omega

theorem chunkSize_pos {a : Addr} {n : Len} (h : n ≠ 0#24) : 1 ≤ chunkSize a n := by
  have : n.toNat ≠ 0 := fun hz => h (by apply BitVec.eq_of_toNat_eq; simpa using hz)
  unfold chunkSize pageOffset pageSize; omega

/-- The register `chunk` holds the chunk size (R172). -/
@[simp] theorem chunk_register (a : Addr) (n : Len) : (BitVec.ofNat 9 (chunkSize a n)).toNat = chunkSize a n := by
  have := chunkSize_le_page a n
  simp; omega

/-! ## Requests and frames -/

/-- A request at the port is turned away, refused or accepted. -/
theorem request_cases (c : Code) (a : Addr) (n : Len) (b : Bool) (s : State) :
    (s.seq ≠ .idle ∧ request c a n b s = .next s) ∨
      (s.seq = .idle ∧ b = false ∧ s.params.outOfContract = .refuse ∧ request c a n b s = .refused .outOfContract) ∨
      (s.seq = .idle ∧ (b = true ∨ s.params.outOfContract = .literal) ∧
        request c a n b s = .next (s.load c a n).leaveIdle) := by
  unfold request
  by_cases hs : s.seq = .idle
  · cases b <;> cases s.params.outOfContract <;> simp [hs]
  · simp [hs]

/-- Where acceptance leads. -/
theorem leaveIdle_cases (s : State) :
    (s.op = codeWrite ∧ s.remaining = 0#24 ∧ s.params.zeroLenWriteEmitsFrame = false ∧ s.leaveIdle = s.goTo .fin) ∨
      (6 ≤ s.op.toNat ∧ s.leaveIdle = s.goTo .fin) ∨
      (s.op.toNat ≤ 5 ∧ (s.op = codeWrite → s.remaining ≠ 0#24 ∨ s.params.zeroLenWriteEmitsFrame = true) ∧
        s.leaveIdle = s.enterPoll) := by
  unfold State.leaveIdle
  by_cases h1 : s.op = codeWrite ∧ s.remaining = 0#24 ∧ s.params.zeroLenWriteEmitsFrame = false
  · simp [h1]
  · by_cases h2 : 6 ≤ s.op.toNat
    · right; left; rw [if_neg h1, if_pos h2]; exact ⟨h2, rfl⟩
    · right; right
      rw [if_neg h1, if_neg h2]
      refine ⟨by omega, fun hw => ?_, rfl⟩
      by_cases hr : s.remaining = 0#24
      · right; by_contra hz; exact h1 ⟨hw, hr, by simpa using hz⟩
      · exact .inl hr

/-- Executing a frame always answers the frame closed, with a chip whose array is in canonical form if it was before. -/
theorem exec_frame_cases {i : Instr} (hi : i.isFrame = true) (s : State)
    (hm : Mem.wf s.params.capacity s.chip.mem = true) :
    ∃ r : Option Chip, (∀ c, r = some c → Mem.wf s.params.capacity c.mem = true) ∧
      ((i ≠ .rdsr ∧ exec i s = .next (s.closeFrame r)) ∨
        (i = .rdsr ∧ r = some s.chip ∧ exec i s = .next (s.latchStatus.closeFrame r))) := by
  cases i with
  | pp a d => exact ⟨_, fun c hc => Chip.reaction_wf hm (.inr (.inr (.inr (.inl ⟨a, d, hc⟩)))), .inl ⟨by simp, rfl⟩⟩
  | readData a n => exact ⟨_, fun c hc => Chip.reaction_wf hm (.inr (.inr (.inl ⟨a, n, hc⟩))), .inl ⟨by simp, rfl⟩⟩
  | rdsr => exact ⟨_, fun c hc => Chip.reaction_wf hm (.inl hc), .inr ⟨rfl, rfl, rfl⟩⟩
  | wren => exact ⟨_, fun c hc => Chip.reaction_wf hm (.inr (.inl hc)), .inl ⟨by simp, rfl⟩⟩
  | be => exact ⟨_, fun c hc => Chip.reaction_wf hm (.inr (.inr (.inr (.inr (.inr hc))))), .inl ⟨by simp, rfl⟩⟩
  | se a => exact ⟨_, fun c hc => Chip.reaction_wf hm (.inr (.inr (.inr (.inr (.inl ⟨a, hc⟩))))), .inl ⟨by simp, rfl⟩⟩
  | readReq a n => cases hi
  | writeReq a n => cases hi
  | eraseSectorReq a n => cases hi
  | eraseAllReq a n => cases hi
  | waitReq a n => cases hi
  | enableWriteReq a n => cases hi

/-- Executing a request is `request` with its code, and its contract. -/
theorem exec_request_cases {i : Instr} (hi : i.isFrame = false) (s : State) :
    ∃ c a n b, exec i s = request c a n b s ∧ c.toNat ≤ 5 ∧
      (b = true → ((c = codeRead ∨ c = codeWrite) → rangeInContract s.params a n.toNat = true) ∧
        (c = codeEraseSector → addrInContract s.params a = true)) := by
  cases i with
  | readReq a n => exact ⟨codeRead, a, n, _, rfl, by decide, fun h => ⟨fun _ => h, by simp [codeRead, codeEraseSector]⟩⟩
  | writeReq a n => exact ⟨codeWrite, a, n, _, rfl, by decide, fun h => ⟨fun _ => h, by simp [codeWrite, codeEraseSector]⟩⟩
  | eraseSectorReq a n =>
    exact ⟨codeEraseSector, a, n, _, rfl, by decide, fun h => ⟨by simp [codeRead, codeWrite, codeEraseSector], fun _ => h⟩⟩
  | eraseAllReq a n =>
    exact ⟨codeEraseAll, a, n, _, rfl, by decide, fun _ => by simp [codeRead, codeWrite, codeEraseSector, codeEraseAll]⟩
  | waitReq a n =>
    exact ⟨codeWait, a, n, _, rfl, by decide, fun _ => by simp [codeRead, codeWrite, codeEraseSector, codeWait]⟩
  | enableWriteReq a n =>
    exact ⟨codeEnableWrite, a, n, _, rfl, by decide, fun _ => by
      simp [codeRead, codeWrite, codeEraseSector, codeEnableWrite]⟩
  | pp a d => cases hi
  | readData a n => cases hi
  | rdsr => cases hi
  | wren => cases hi
  | be => cases hi
  | se a => cases hi

/-! ## The step -/

/-- What a step finds to do, and where. -/
theorem fetch_cases (s : State) :
    (s.seq = .idle ∧ s.requests = [] ∧ s.fetch = .nothing) ∨
      (∃ w rest i, s.seq = .idle ∧ s.requests = w :: rest ∧ decode (.request w) = .ok i ∧
        s.fetch = .instr i { s with requests := rest }) ∨
      (∃ w rest e, s.seq = .idle ∧ s.requests = w :: rest ∧ decode (.request w) = .error e ∧
        s.fetch = .reserved w { s with requests := rest }) ∨
      (∃ i, (s.seq = .pDes ∨ s.seq = .wDes ∨ s.seq = .cDes) ∧ decode (.frame s.sent) = .ok i ∧ s.fetch = .instr i s) ∨
      (∃ e, (s.seq = .pDes ∨ s.seq = .wDes ∨ s.seq = .cDes) ∧ decode (.frame s.sent) = .error e ∧
        s.fetch = .unreadable s) ∨
      (s.seq ≠ .idle ∧ s.seq ≠ .pDes ∧ s.seq ≠ .wDes ∧ s.seq ≠ .cDes ∧ s.fetch = .row) := by
  cases hs : s.seq
  case idle =>
    cases hr : s.requests with
    | nil => simp [State.fetch, hs, hr]
    | cons w rest => cases hd : decode (.request w) <;> simp [State.fetch, hs, hr, hd]
  case pDes => cases hd : decode (.frame s.sent) <;> simp [State.fetch, hs, hd]
  case wDes => cases hd : decode (.frame s.sent) <;> simp [State.fetch, hs, hd]
  case cDes => cases hd : decode (.frame s.sent) <;> simp [State.fetch, hs, hd]
  all_goals simp [State.fetch, hs]

/-- A step is the block's row on the state after the environment's part, unless `rst` is 1. -/
theorem step_of_rst {s : State} (h : s.rst = true) : step s = .next s.tick.resetBlock := by
  unfold step cycle; rw [if_pos (by simpa using h)]

theorem step_of_no_rst {s : State} (h : s.rst = false) : step s = stepBlock s.tick := by
  unfold step cycle; rw [if_neg (by simp [h])]

end Sys2Proof.Machine
end

