-- ==== Sys2Proof/Laws/PerInstr.lean ====
section
/-! SUPPORT. One lemma per instruction: the space, the opcode or code, and the operand fields its encoding has. -/

namespace Sys2Proof.Laws.EncodedForm

open Machine

/-- The encoding of an instruction begins with its own opcode (R81) and its address bytes (R83), or carries its own request code
and operands (R86, R87), whatever stands in the receive positions. -/
def Statement : Instr → Prop
  | .pp a d => ∀ dummy, encode dummy (.pp a d) = .frame (0x02#8 :: addrByte2 a :: addrByte1 a :: addrByte0 a :: d)
  | .readData a n => ∀ dummy, ∃ rest, rest.length = n ∧
      encode dummy (.readData a n) = .frame (0x03#8 :: addrByte2 a :: addrByte1 a :: addrByte0 a :: rest)
  | .rdsr => ∀ dummy, ∃ b, encode dummy .rdsr = .frame [0x05#8, b]
  | .wren => ∀ dummy, encode dummy .wren = .frame [0x06#8]
  | .be => ∀ dummy, encode dummy .be = .frame [0xC7#8]
  | .se a => ∀ dummy, encode dummy (.se a) = .frame [0xD8#8, addrByte2 a, addrByte1 a, addrByte0 a]
  | .readReq a n => ∀ dummy, ∃ w, encode dummy (.readReq a n) = .request w ∧ reqCode w = 0#3 ∧ reqAddr w = a ∧ reqLen w = n
  | .writeReq a n => ∀ dummy, ∃ w, encode dummy (.writeReq a n) = .request w ∧ reqCode w = 1#3 ∧ reqAddr w = a ∧ reqLen w = n
  | .eraseSectorReq a n =>
    ∀ dummy, ∃ w, encode dummy (.eraseSectorReq a n) = .request w ∧ reqCode w = 2#3 ∧ reqAddr w = a ∧ reqLen w = n
  | .eraseAllReq a n =>
    ∀ dummy, ∃ w, encode dummy (.eraseAllReq a n) = .request w ∧ reqCode w = 3#3 ∧ reqAddr w = a ∧ reqLen w = n
  | .waitReq a n => ∀ dummy, ∃ w, encode dummy (.waitReq a n) = .request w ∧ reqCode w = 4#3 ∧ reqAddr w = a ∧ reqLen w = n
  | .enableWriteReq a n =>
    ∀ dummy, ∃ w, encode dummy (.enableWriteReq a n) = .request w ∧ reqCode w = 5#3 ∧ reqAddr w = a ∧ reqLen w = n

theorem pp (a : Addr) (d : List Byte) : Statement (.pp a d) := fun _ => rfl
theorem readData (a : Addr) (n : Nat) : Statement (.readData a n) := fun dummy => ⟨List.replicate n dummy, by simp, rfl⟩
theorem rdsr : Statement .rdsr := fun dummy => ⟨dummy, rfl⟩
theorem wren : Statement .wren := fun _ => rfl
theorem be : Statement .be := fun _ => rfl
theorem se (a : Addr) : Statement (.se a) := fun _ => rfl
theorem readReq (a : Addr) (n : Len) : Statement (.readReq a n) :=
  fun _ => ⟨_, rfl, reqCode_packRequest _ a n, reqAddr_packRequest _ a n, reqLen_packRequest _ a n⟩
theorem writeReq (a : Addr) (n : Len) : Statement (.writeReq a n) :=
  fun _ => ⟨_, rfl, reqCode_packRequest _ a n, reqAddr_packRequest _ a n, reqLen_packRequest _ a n⟩
theorem eraseSectorReq (a : Addr) (n : Len) : Statement (.eraseSectorReq a n) :=
  fun _ => ⟨_, rfl, reqCode_packRequest _ a n, reqAddr_packRequest _ a n, reqLen_packRequest _ a n⟩
theorem eraseAllReq (a : Addr) (n : Len) : Statement (.eraseAllReq a n) :=
  fun _ => ⟨_, rfl, reqCode_packRequest _ a n, reqAddr_packRequest _ a n, reqLen_packRequest _ a n⟩
theorem waitReq (a : Addr) (n : Len) : Statement (.waitReq a n) :=
  fun _ => ⟨_, rfl, reqCode_packRequest _ a n, reqAddr_packRequest _ a n, reqLen_packRequest _ a n⟩
theorem enableWriteReq (a : Addr) (n : Len) : Statement (.enableWriteReq a n) :=
  fun _ => ⟨_, rfl, reqCode_packRequest _ a n, reqAddr_packRequest _ a n, reqLen_packRequest _ a n⟩

end Sys2Proof.Laws.EncodedForm
end

