-- ==== Sys2Proof/Laws/Step.lean ====
section
/-! SUPPORT. What a step does in each state of the sequencer, so that no proof unfolds `step`. -/

namespace Sys2Proof.Machine

/-- Outside IDLE and the closing states a step is the row of the table. -/
theorem step_row {s : State} (hr : s.rst = false) (h1 : s.seq ≠ .idle) (h2 : s.seq ≠ .pDes) (h3 : s.seq ≠ .wDes)
    (h4 : s.seq ≠ .cDes) : step s = stepRow s.tick := by
  have hf : s.tick.fetch = .row := by
    unfold State.fetch
    cases hs : s.seq <;> simp_all
  rw [step_of_no_rst hr]
  simp only [stepBlock, hf]

theorem step_row_of {s : State} {q : Seq} (hr : s.rst = false) (hq : s.seq = q)
    (h : q ≠ .idle ∧ q ≠ .pDes ∧ q ≠ .wDes ∧ q ≠ .cDes) : step s = stepRow s.tick := by
  subst hq; exact step_row hr h.1 h.2.1 h.2.2.1 h.2.2.2

theorem step_pSel {s : State} (hr : s.rst = false) (hs : s.seq = .pSel) : step s = .next (rowPSel s.tick) := by
  rw [step_row_of hr hs (by decide)]; simp only [stepRow, State.tick_seq, hs]

theorem step_pCmd {s : State} (hr : s.rst = false) (hs : s.seq = .pCmd) : step s = .next (rowPCmd s.tick) := by
  rw [step_row_of hr hs (by decide)]; simp only [stepRow, State.tick_seq, hs]

theorem step_pSta {s : State} (hr : s.rst = false) (hs : s.seq = .pSta) : step s = .next (rowPSta s.tick) := by
  rw [step_row_of hr hs (by decide)]; simp only [stepRow, State.tick_seq, hs]

theorem step_wSel {s : State} (hr : s.rst = false) (hs : s.seq = .wSel) : step s = .next (rowWSel s.tick) := by
  rw [step_row_of hr hs (by decide)]; simp only [stepRow, State.tick_seq, hs]

theorem step_wCmd {s : State} (hr : s.rst = false) (hs : s.seq = .wCmd) : step s = .next (rowWCmd s.tick) := by
  rw [step_row_of hr hs (by decide)]; simp only [stepRow, State.tick_seq, hs]

theorem step_cSel {s : State} (hr : s.rst = false) (hs : s.seq = .cSel) : step s = .next (rowCSel s.tick) := by
  rw [step_row_of hr hs (by decide)]; simp only [stepRow, State.tick_seq, hs]

theorem step_cOp {s : State} (hr : s.rst = false) (hs : s.seq = .cOp) : step s = rowCOp s.tick := by
  rw [step_row_of hr hs (by decide)]; simp only [stepRow, State.tick_seq, hs]

theorem step_cA2 {s : State} (hr : s.rst = false) (hs : s.seq = .cA2) : step s = .next (rowCA2 s.tick) := by
  rw [step_row_of hr hs (by decide)]; simp only [stepRow, State.tick_seq, hs]

theorem step_cA1 {s : State} (hr : s.rst = false) (hs : s.seq = .cA1) : step s = .next (rowCA1 s.tick) := by
  rw [step_row_of hr hs (by decide)]; simp only [stepRow, State.tick_seq, hs]

theorem step_cA0 {s : State} (hr : s.rst = false) (hs : s.seq = .cA0) : step s = rowCA0 s.tick := by
  rw [step_row_of hr hs (by decide)]; simp only [stepRow, State.tick_seq, hs]

theorem step_cRd {s : State} (hr : s.rst = false) (hs : s.seq = .cRd) : step s = .next (rowCRd s.tick) := by
  rw [step_row_of hr hs (by decide)]; simp only [stepRow, State.tick_seq, hs]

theorem step_cWr {s : State} (hr : s.rst = false) (hs : s.seq = .cWr) : step s = .next (rowCWr s.tick) := by
  rw [step_row_of hr hs (by decide)]; simp only [stepRow, State.tick_seq, hs]

theorem step_fin {s : State} (hr : s.rst = false) (hs : s.seq = .fin) : step s = .next (rowFin s.tick) := by
  rw [step_row_of hr hs (by decide)]; simp only [stepRow, State.tick_seq, hs]

/-- In C_WR the block waits for the client, or the byte to be sent is held or sent; `u` is the state once it is taken. -/
theorem rowCWr_cases (s : State) :
    (s.outstanding = none ∧ s.wdata = [] ∧ rowCWr s = s) ∨
      ∃ d u, rowCWr s = sendData d u ∧
        ((s.outstanding = some d ∧ u = s) ∨
          (s.outstanding = none ∧ ∃ rest, s.wdata = d :: rest ∧ u = State.observe { s with wdata := rest } (.taken d))) := by
  unfold rowCWr
  cases ho : s.outstanding with
  | some d => exact .inr ⟨d, s, rfl, .inl ⟨rfl, rfl⟩⟩
  | none =>
    cases hw : s.wdata with
    | nil => exact .inl ⟨rfl, rfl, rfl⟩
    | cons d rest => exact .inr ⟨d, _, rfl, .inr ⟨rfl, rest, rfl, rfl⟩⟩

/-- Where P_DES leads, by the status byte read (R131, R191, R246). -/
theorem afterPDes_cases {s t : State} (h : afterPDes s = .next t) :
    (s.wipSeen = true ∧ s.params.pollLimit = some s.pollCnt ∧ t = s.raisePollTimeout) ∨
      (s.wipSeen = true ∧ s.params.pollLimit ≠ some s.pollCnt ∧ t = s.goTo .pSel) ∨
      (s.wipSeen = false ∧ s.op = codeWait ∧ t = s.goTo .fin) ∨
      (s.wipSeen = false ∧ s.op = codeRead ∧ t = s.goTo .cSel) ∨
      (s.wipSeen = false ∧ s.op ≠ codeWait ∧ s.op ≠ codeRead ∧ s.op.toNat ≤ 5 ∧ t = s.goTo .wSel) := by
  unfold afterPDes at h
  cases hw : s.wipSeen <;> simp only [hw, if_true, if_false, Bool.false_eq_true] at h
  · split at h
    · cases h; simp_all
    · split at h
      · cases h; simp_all
      · split at h
        · cases h; simp_all
        · cases h
  · split at h <;> cases h <;> simp_all

/-- Where C_DES leads (R170, R191). -/
theorem afterCDes_cases (s : State) :
    (s.op = codeWrite ∧ s.remaining ≠ 0#24 ∧ afterCDes s = s.enterPoll) ∨
      (¬ (s.op = codeWrite ∧ s.remaining ≠ 0#24) ∧ afterCDes s = s.goTo .fin) := by
  unfold afterCDes; split <;> simp_all

/-- What IDLE can answer: nothing offered, a request accepted, or a refusal. -/
theorem step_idle_cases {s t : State} (hr : s.rst = false) (hs : s.seq = .idle) (h : step s = .next t) :
    (s.requests = [] ∧ t = s.tick) ∨
      ∃ w rest, s.requests = w :: rest ∧
        t = (State.load { s.tick with requests := rest } (reqCode w) (reqAddr w) (reqLen w)).leaveIdle ∧
        (s.params.outOfContract = .refuse →
          (reqCode w).toNat ≤ 5 ∧
          ((reqCode w = codeRead ∨ reqCode w = codeWrite) →
            rangeInContract s.params (reqAddr w) (reqLen w).toNat = true) ∧
          (reqCode w = codeEraseSector → addrInContract s.params (reqAddr w) = true)) := by
  rw [step_of_no_rst hr] at h
  cases hq : s.requests with
  | nil =>
    refine .inl ⟨rfl, ?_⟩
    simpa [stepBlock, State.fetch, hs, hq, eq_comm] using h
  | cons w rest =>
    refine .inr ⟨w, rest, rfl, ?_⟩
    have key : ∀ (c : Code) (b : Bool), reqCode w = c →
        andThen (request c (reqAddr w) (reqLen w) b { s.tick with requests := rest }) afterInstr = .next t →
        t = (State.load { s.tick with requests := rest } (reqCode w) (reqAddr w) (reqLen w)).leaveIdle ∧
          (s.params.outOfContract = .refuse → b = true) := by
      intro c b hc h
      rcases request_cases c (reqAddr w) (reqLen w) b { s.tick with requests := rest } with
        ⟨h1, _⟩ | ⟨_, _, _, h1⟩ | ⟨_, hb, h1⟩
      · exact absurd hs h1
      · rw [h1] at h; cases h
      · rw [h1, andThen_next] at h
        refine ⟨?_, fun hp => hb.resolve_right fun hl => by cases hp.symm.trans hl⟩
        rw [hc]
        rcases leaveIdle_cases (State.load { s.tick with requests := rest } c (reqAddr w) (reqLen w)) with
          ⟨_, _, _, h2⟩ | ⟨_, h2⟩ | ⟨_, _, h2⟩ <;> rw [h2] at h ⊢ <;> cases h <;> rfl
    rcases fetch_cases s.tick with
      ⟨_, h2, _⟩ | ⟨w', rest', i, _, h2, hd, hf⟩ | ⟨w', rest', e, _, h2, hd, hf⟩ | ⟨_, h1, _⟩ | ⟨_, h1, _⟩ | ⟨h1, _⟩
    · rw [State.tick_requests, hq] at h2; cases h2
    · rw [State.tick_requests, hq] at h2; cases h2
      simp only [stepBlock, hf] at h
      rcases decode_request_cases hd with ⟨hc, rfl⟩ | ⟨hc, rfl⟩ | ⟨hc, rfl⟩ | ⟨hc, rfl⟩ | ⟨hc, rfl⟩ | ⟨hc, rfl⟩
      all_goals
        obtain ⟨e1, e2⟩ := key _ _ hc h
        refine ⟨e1, fun hp => ?_⟩
        have hb := e2 hp
        rw [hc]
        simp_all [codeRead, codeWrite, codeEraseSector, codeEraseAll, codeWait, codeEnableWrite]
    · rw [State.tick_requests, hq] at h2; cases h2
      simp only [stepBlock, hf, acceptReserved] at h
      split at h
      · cases h
      · rename_i hp
        cases h
        exact ⟨rfl, fun hp' => by cases hp'.symm.trans hp⟩
    · rcases h1 with h1 | h1 | h1 <;> cases hs.symm.trans h1
    · rcases h1 with h1 | h1 | h1 <;> cases hs.symm.trans h1
    · exact absurd hs h1

/-- What closing a frame does in a state of the sequencer where one is closed: the chip is some chip, only `sr_shadow` may be
written. -/
theorem step_close_cases {s : State} (hr : s.rst = false) (h : s.seq = .pDes ∨ s.seq = .wDes ∨ s.seq = .cDes) :
    ∃ c st, step s = afterInstr (State.deselect { s.tick with srShadow := st, chip := c }) ∧
      (st = s.srShadow ∨ st = s.latchStatus.srShadow) := by
  rw [step_of_no_rst hr]
  rcases fetch_cases s.tick with
    ⟨h1, _⟩ | ⟨_, _, _, h1, _⟩ | ⟨_, _, _, h1, _⟩ | ⟨i, _, hd, hf⟩ | ⟨e, _, hd, hf⟩ | ⟨_, h1, h2, h3, _⟩
  · rcases h with h | h | h <;> cases h.symm.trans h1
  · rcases h with h | h | h <;> cases h.symm.trans h1
  · rcases h with h | h | h <;> cases h.symm.trans h1
  · simp only [stepBlock, hf]
    have hi := decode_frame_isFrame hd
    cases i with
    | rdsr =>
      refine ⟨s.tick.latchStatus.react s.tick.chip.onRdsr, s.latchStatus.srShadow, ?_, .inr rfl⟩
      simp only [exec, execRdsr, andThen_next, State.closeFrame]
      congr 2
      unfold State.latchStatus
      rw [State.tick_frame]
      split <;> rfl
    | pp a d => exact ⟨_, s.srShadow, rfl, .inl rfl⟩
    | readData a n => exact ⟨_, s.srShadow, rfl, .inl rfl⟩
    | wren => exact ⟨_, s.srShadow, rfl, .inl rfl⟩
    | be => exact ⟨_, s.srShadow, rfl, .inl rfl⟩
    | se a => exact ⟨_, s.srShadow, rfl, .inl rfl⟩
    | readReq a n => cases hi
    | writeReq a n => cases hi
    | eraseSectorReq a n => cases hi
    | eraseAllReq a n => cases hi
    | waitReq a n => cases hi
    | enableWriteReq a n => cases hi
  · simp only [stepBlock, hf]
    exact ⟨s.tick.react none, s.srShadow, rfl, .inl rfl⟩
  · rcases h with h | h | h
    · exact absurd h h1
    · exact absurd h h2
    · exact absurd h h3

/-- A chip that finishes before the next step finishes sooner or later. -/
theorem State.chipFinishes_of_prompt {s : State} (h : s.pace = .prompt) : s.ChipFinishes :=
  fun n => ⟨n, le_refl n, by simp [State.finishes, h]⟩

/-- So does one that finishes every `m + 1` steps. -/
theorem State.chipFinishes_of_every {s : State} {m : Nat} (h : s.pace = .every m) : s.ChipFinishes :=
  fun n => ⟨(m + 1) * n, Nat.le_mul_of_pos_left n m.succ_pos, by simp [State.finishes, h]⟩

end Sys2Proof.Machine
end

