-- ==== Sys2Proof/Tests/Slice0.lean ====
section
/-! SUPPORT. Tests against spec/95_test_vectors.md and the encodings of spec/30_encoding.md, and for every statement of
Certificates/Slice0/Obligations.lean that has hypotheses a concrete state and operands that meet them. -/

namespace Sys2Proof.Tests

open Sys2Proof.Machine Sys2Proof.Claims

/-! ## Helpers -/

/-- The next state, if there is one. -/
def next? (o : Host.Outcome State Fault Refusal) : Option State :=
  match o with
  | .next t => some t
  | .fault _ => none
  | .refused _ => none

/-- Why a request was refused, if it was. -/
def refused? (o : Host.Outcome State Fault Refusal) : Option Refusal :=
  match o with
  | .next _ => none
  | .fault _ => none
  | .refused r => some r

/-- The machine after reset, with these requests and write data offered, on a chip that finishes at once. -/
def offering (reqs : List ReqWord) (wdata : List Byte) : State :=
  { State.reset with requests := reqs, wdata := wdata, pace := .prompt }

/-- The same, with the literal reading of the contract. -/
def literally (s : State) : State := { s with params := { s.params with outOfContract := .literal } }

/-- The same, with a limit on polls. -/
def bounded (lim : Nat) (s : State) : State := { s with params := { s.params with pollLimit := some lim } }

/-- The same, with a busy chip that never finishes. -/
def hung (s : State) : State := { s with pace := .never, chip := { s.chip with wip := true } }

/-- The same, with a busy chip that finishes before every fourth step. -/
def slowly (s : State) : State := { s with pace := .every 3, chip := { s.chip with wip := true } }

/-- A busy block: `op` in state `q`, the bytes of `sent` exchanged. -/
def midway (q : Seq) (c : Code) (sent : List Byte) : State :=
  { State.reset with
    seq := q, op := c, btSelect := q.selected, frame := sent.map fun b => { tx := b, rx := none }, pace := .prompt }

/-- The end of a poll that read `st`. -/
def polled (c : Code) (st : Byte) : State :=
  { midway .pDes c [] with frame := [{ tx := 0x05#8, rx := none }, { tx := 0x00#8, rx := some st }], srShadow := st }

/-- A chip that takes a program or erase. -/
def readyChip (cells : Mem) : Chip := { mem := cells, wel := true, wip := false }

/-- A WRITE of 11 22 33 44 at 0x0000FE (V27) after its first data byte: 0xFF is the next address, one byte of the chunk left. -/
def writing : State :=
  { midway .cWr codeWrite [0x02#8, 0x00#8, 0x00#8, 0xFE#8, 0x11#8] with
    curAddr := 0x0000FF#24, remaining := 3#24, chunk := 1#9, chip := readyChip [], wdata := [0x22#8, 0x33#8, 0x44#8] }

/-- A WRITE with its write-enable frame closed, its chunk loaded, about to select the chip. -/
def commanding : State :=
  { midway .cSel codeWrite [] with curAddr := 0x0000FE#24, remaining := 4#24, chunk := 2#9, chip := readyChip [] }

/-- A one-byte WRITE whose page program is about to be closed (V43). -/
def closing : State :=
  { midway .cDes codeWrite [0x02#8, 0x00#8, 0x00#8, 0x10#8, 0x5A#8] with
    curAddr := 0x000011#24, chip := readyChip [] }

/-- A READ of the last byte of the array, its header sent (V18). -/
def reading : State :=
  { midway .cRd codeRead [0x03#8, 0x1F#8, 0xFF#8, 0xFF#8] with
    curAddr := 0x1FFFFF#24, remaining := 1#24, chip := { mem := [(0x1FFFFF, 0x5A#8)], wel := false, wip := false } }

/-! ## Well-formedness: each check refuses an ill-formed term -/

theorem test_wf_pp : Instr.wellFormed .reference (.pp 0x0001FE#24 [0x11#8, 0x22#8]) = true := by decide
theorem test_wf_pp_empty : Instr.wellFormed .reference (.pp 0x0001FE#24 []) = false := by decide
theorem test_wf_pp_crosses_page : Instr.wellFormed .reference (.pp 0x0001FE#24 [1#8, 2#8, 3#8]) = false := by decide
theorem test_wf_pp_outside : Instr.wellFormed .reference (.pp 0x200000#24 [1#8]) = false := by decide
theorem test_wf_readData_outside : Instr.wellFormed .reference (.readData 0x1FFFFF#24 2) = false := by decide
theorem test_wf_se_outside : Instr.wellFormed .reference (.se 0x200000#24) = false := by decide
/-- spec/95 §2.4 -/
theorem test_wf_readReq_outside : Instr.wellFormed .reference (.readReq 0x1FFFFF#24 2#24) = false ∧
    Instr.wellFormed .reference (.readReq 0x200000#24 0#24) = false ∧
    Instr.wellFormed .reference (.readReq 0xFFFFFF#24 1#24) = false := by decide
/-- spec/95 §2.5, V35 -/
theorem test_wf_writeReq : Instr.wellFormed .reference (.writeReq 0x1FFEFF#24 257#24) = true ∧
    Instr.wellFormed .reference (.writeReq 0x1FFFFF#24 2#24) = false := by decide
theorem test_wf_eraseSectorReq_outside : Instr.wellFormed .reference (.eraseSectorReq 0x200000#24 0#24) = false := by decide

/-! ## Decoding: words written out from the encodings (R81 to R87; V1 to V6, P1, P2, P4) -/

theorem test_decode_pp : decode (.frame [0x02#8, 0x00#8, 0x01#8, 0xFE#8, 0x11#8, 0x22#8]) =
    .ok (.pp 0x0001FE#24 [0x11#8, 0x22#8]) := rfl
theorem test_decode_readData : decode (.frame [0x03#8, 0x1A#8, 0xBC#8, 0xDE#8, 0x00#8, 0x00#8, 0x00#8]) =
    .ok (.readData 0x1ABCDE#24 3) := rfl
theorem test_decode_rdsr : decode (.frame [0x05#8, 0x00#8]) = .ok .rdsr := rfl
theorem test_decode_wren : decode (.frame [0x06#8]) = .ok .wren := rfl
theorem test_decode_be : decode (.frame [0xC7#8]) = .ok .be := rfl
theorem test_decode_se : decode (.frame [0xD8#8, 0x01#8, 0x23#8, 0x45#8]) = .ok (.se 0x012345#24) := rfl
/-- P1 request 4; code 000, address bits 47:24, length bits 23:0 -/
theorem test_decode_readReq : decode (.request 0b000000000000000000011111100000000000000000000001000#51) =
    .ok (.readReq 0x0000FC#24 8#24) := by rfl
theorem test_decode_writeReq : decode (.request 0x10101F0000258#51) = .ok (.writeReq 0x0101F0#24 600#24) := rfl
theorem test_decode_eraseSectorReq : decode (.request 0x2012345000000#51) = .ok (.eraseSectorReq 0x012345#24 0#24) := rfl
theorem test_decode_eraseAllReq : decode (.request 0x3000000000000#51) = .ok (.eraseAllReq 0#24 0#24) := rfl
theorem test_decode_waitReq : decode (.request 0x4000000000000#51) = .ok (.waitReq 0#24 0#24) := rfl
theorem test_decode_enableWriteReq : decode (.request 0x5000000000000#51) = .ok (.enableWriteReq 0#24 0#24) := rfl
theorem test_decode_reserved : decode (.request 0x6000000000000#51) = .error .reservedCode ∧
    decode (.request 0x7000000000000#51) = .error .reservedCode := ⟨rfl, rfl⟩
/-- The table's numbering (log 21): the opcode is byte 0, the operand bytes that the row gives no bits are 0. -/
theorem test_tableWord_frame : decodeTableWord 8 0x02 = some (.pp 0#24 [0x00#8]) ∧
    decodeTableWord 32 0x452301D8 = some (.se 0x012345#24) := by decide
theorem test_tableWord_request : decodeTableWord 56 0x2012345000000 = some (.eraseSectorReq 0x012345#24 0#24) := by decide

/-! ## One step of each kind -/

theorem test_reset_memory_wf : Mem.wf State.reset.params.capacity State.reset.chip.mem = true := by decide
/-- A frame and a request placed with `withFetchWord` are what the next step runs. -/
theorem test_withFetchWord_frame : (next? (step (State.reset.withFetchWord 8 0x06))).map (·.chip.wel) = some true := by decide
theorem test_withFetchWord_request :
    (next? (step (State.reset.withFetchWord 56 0x10000FE000004))).map (fun t => (t.seq, t.op, t.curAddr, t.remaining)) =
      some (.pSel, 1#3, 0x0000FE#24, 4#24) := by decide
/-- V44: 0xF0 AND 0x3C -/
theorem test_pp_clears_bits :
    (next? (exec (.pp 0x10#24 [0x3C#8]) { closing with chip := readyChip [(0x10, 0xF0#8)] })).map (·.chip) =
      some { mem := [(0x10, 0x30#8)], wel := false, wip := true } := by decide
/-- R217, R55 and spec/95 §2.5: past the end of the page the third and fourth byte wrap to its beginning. -/
theorem test_pp_wraps_in_page :
    (next? (exec (.pp 0xFE#24 [0x11#8, 0x22#8, 0x33#8, 0x44#8]) { closing with chip := readyChip [] })).map (·.chip.mem) =
      some [(0x00, 0x33#8), (0x01, 0x44#8), (0xFE, 0x11#8), (0xFF, 0x22#8)] := by decide
/-- V18: the last byte of the array is read, and the counter wraps into 0x200000. -/
theorem test_read_last_byte : (next? (step reading)).map (fun t => (t.readData, t.curAddr, t.remaining, t.seq)) =
    some ([0x5A#8], 0x200000#24, 0#24, .cDes) := by decide
theorem test_readData_leaves_chip : (next? (exec (.readData 0#24 3) reading)).map (·.chip) = some reading.chip := by decide
/-- V1: the status byte is kept whole. -/
theorem test_rdsr_keeps_status : (next? (exec .rdsr (polled codeWait 0x03#8))).map (·.srShadow) = some 0x03#8 := by decide
/-- V46 -/
theorem test_wren_sets_latch : (next? (exec .wren (midway .wDes codeWrite [0x06#8]))).map (·.chip) =
    some { mem := [], wel := true, wip := false } := by decide
/-- V48 -/
theorem test_be_erases : (next? (exec .be { closing with chip := readyChip [(5, 0x00#8)] })).map (·.chip) =
    some { mem := [], wel := false, wip := true } := by decide
/-- V39 with SECTOR_SIZE 65,536: 0x010000 to 0x01FFFF, not the bytes beside it. -/
theorem test_se_erases_sector :
    (next? (exec (.se 0x012345#24)
      { closing with chip := readyChip [(0xFFFF, 0#8), (0x10000, 0#8), (0x1FFFF, 0#8), (0x20000, 0#8)] })).map (·.chip) =
      some { mem := [(0xFFFF, 0#8), (0x20000, 0#8)], wel := false, wip := true } := by decide
/-- V26, steps 5 to 7: the chunk is min(256 - 255, 2) = 1. -/
theorem test_write_loads_chunk :
    (next? (step { midway .wDes codeWrite [0x06#8] with curAddr := 0x0000FF#24, remaining := 2#24 })).map
      (fun t => (t.chunk, t.seq, t.chip.wel)) = some (1#9, .cSel, true) := by decide
/-- V26, step 13 -/
theorem test_write_counts : (next? (step writing)).map (fun t => (t.curAddr, t.remaining, t.chunk, t.seq, t.wdata)) =
    some (0x000100#24, 2#24, 0#9, .cDes, [0x33#8, 0x44#8]) := by decide
/-- V50: accepted, completes at once. -/
theorem test_zero_length_write : (next? (exec (.writeReq 0#24 0#24) State.reset)).map (·.seq) = some .fin := by decide
/-- V51: at the limit the poll gives up; below it the next poll starts. -/
theorem test_poll_limit :
    (next? (step { bounded 3 (polled codeRead 0x01#8) with pollCnt := 3 })).map (fun t => (t.seq, t.timeoutErr)) =
      some (.fin, true) ∧
    (next? (step { bounded 3 (polled codeRead 0x01#8) with pollCnt := 2 })).map (fun t => (t.seq, t.timeoutErr)) =
      some (.pSel, false) := by decide
/-- V9: 0xFE has bit 0 = 0 and ends the poll, 0xFF does not. -/
theorem test_poll_looks_at_bit_0 : (next? (step (polled codeWait 0xFE#8))).map (·.seq) = some .fin ∧
    (next? (step (polled codeWait 0xFF#8))).map (·.seq) = some .pSel := by decide
/-- V49 -/
theorem test_reserved_code : refused? (step (offering [0x6000000000000#51] [])) = some .reservedRequest ∧
    (next? (step (literally (offering [0x7000000000000#51] [])))).map (·.seq) = some .fin := by decide
/-- spec/95 §2.4: the last byte is in contract, one more is not. -/
theorem test_contract_edge : (next? (exec (.readReq 0x1FFFFF#24 1#24) State.reset)).isSome = true ∧
    refused? (exec (.readReq 0x1FFFFF#24 2#24) State.reset) = some .outOfContract ∧
    refused? (exec (.eraseSectorReq 0x200000#24 0#24) State.reset) = some .outOfContract ∧
    (next? (exec (.eraseSectorReq 0x1FFFFF#24 0#24) State.reset)).isSome = true := by decide
/-- R262: reset in a poll of a busy chip cuts the frame; the program already started goes on. -/
theorem test_reset_keeps_a_busy_chip :
    (next? (step { midway .pSta codeWait [0x05#8] with
        rst := true, pace := .never, chip := { mem := [(5, 0x00#8)], wel := false, wip := true } })).map
      (fun t => (t.chip.mem, t.chip.wip, t.seq, t.events)) = some ([(5, 0x00#8)], true, .idle, [.des]) := by decide
/-- R262 in FIN, R193: no `done` with `rst` = 1. -/
theorem test_reset_raises_no_done : ({ midway .fin codeWait [] with rst := true }).done = false ∧
    (midway .fin codeWait []).done = true := by decide
/-- R155, U4: past the end of the array the spec gives the chip no reaction. -/
theorem test_read_past_the_end_is_open : reading.chip.onRead reading.params 0x1FFFFF#24 2 = none ∧
    reading.chip.onRead reading.params 0x200000#24 0 = none ∧
    reading.chip.onRead reading.params 0x1FFFFF#24 1 = some reading.chip := by decide
/-- R193, R196: the pulses out of C_RD and C_WR. -/
theorem test_pulses : reading.rdataValid = true ∧ reading.rdata = 0x5A#8 ∧ reading.btStart = true ∧ reading.btTx = some 0x00#8 ∧
    writing.rdataValid = false ∧ writing.btTx = some 0x22#8 ∧ { writing with outstanding := some 0x22#8 }.btStart = false := by decide
/-- R214: a chip of this pace is still busy after a step that its draw does not allow. -/
theorem test_pace_every : (slowly State.reset).finishes = true ∧ { slowly State.reset with draw := 3 }.finishes = false := by decide
/-- R277: a run of no requests has ended where it begins; P1 waits after its write. -/
theorem test_ended : Ended [] State.reset State.reset ∧ EndedWithChip [] State.reset State.reset ∧ State.reset.ResetStart :=
  ⟨⟨rfl, rfl, rfl, rfl, rfl, rfl⟩, ⟨⟨rfl, rfl, rfl, rfl, rfl, rfl⟩, rfl⟩, ⟨rfl, rfl, rfl, rfl, rfl, rfl, rfl⟩⟩
/-- R267 -/
theorem test_waitAfterWrite :
    waitAfterWrite [packRequest codeWrite 0#24 1#24, packRequest codeWait 0#24 0#24, packRequest codeRead 0#24 1#24] = true ∧
    waitAfterWrite [packRequest codeWrite 0#24 1#24, packRequest codeRead 0#24 1#24] = false ∧
    waitAfterWrite [packRequest codeEraseAll 0#24 0#24] = false := by decide
/-- R278: each program is in contract or not, its write data supplied or not. -/
theorem test_premises : InContract .reference [packRequest codeWrite 0x1FFFFF#24 1#24, packRequest codeWait 0#24 0#24] ∧
    ¬ InContract .reference [packRequest codeWrite 0x1FFFFF#24 2#24] ∧ ¬ InContract .reference [0x6000000000000#51] ∧
    writing.DataSupplied [packRequest codeWrite 0#24 3#24] ∧ ¬ writing.DataSupplied [packRequest codeWrite 0#24 4#24] := by
  decide
theorem test_eraseAllReq_polls : (next? (exec (.eraseAllReq 1#24 2#24) State.reset)).map (fun t => (t.seq, t.op, t.curAddr)) =
    some (.pSel, 3#3, 1#24) := by decide
theorem test_waitReq_polls : (next? (exec (.waitReq 0#24 0#24) State.reset)).map (·.seq) = some .pSel := by decide
theorem test_enableWriteReq_polls : (next? (exec (.enableWriteReq 0#24 0#24) State.reset)).map (·.op) = some 5#3 := by decide

/-! ## The invariants hold in concrete states -/

theorem test_offering_inv (reqs : List ReqWord) (wdata : List Byte) : (offering reqs wdata).Inv where
  memory := rfl
  select := rfl
  transfer h := absurd rfl h
  op := trivial
  count := trivial
  frame := rfl
  status := by rintro (h | h) <;> cases h
  poll _ := ⟨rfl, rfl⟩
  contract := fun _ h => absurd rfl h

theorem test_bounded_inv (reqs : List ReqWord) (wdata : List Byte) : (bounded 3 (offering reqs wdata)).Inv where
  memory := rfl
  select := rfl
  transfer h := absurd rfl h
  op := trivial
  count := trivial
  frame := rfl
  status := by rintro (h | h) <;> cases h
  poll h := by cases h
  contract := fun _ h => absurd rfl h

theorem test_slowly_inv (reqs : List ReqWord) (wdata : List Byte) : (slowly (offering reqs wdata)).Inv where
  memory := rfl
  select := rfl
  transfer h := absurd rfl h
  op := trivial
  count := trivial
  frame := rfl
  status := by rintro (h | h) <;> cases h
  poll _ := ⟨rfl, rfl⟩
  contract := fun _ h => absurd rfl h

theorem test_offering_quiet (reqs : List ReqWord) (wdata : List Byte) : (offering reqs wdata).ChipQuiet := by
  refine fun _ => ⟨fun _ => rfl, ?_⟩
  exact fun h => absurd h (show (Seq.idle.commanding : Bool) ≠ true by decide)

theorem test_polled_inv : (polled codeWait 0x00#8).Inv where
  memory := rfl
  select := rfl
  transfer h := absurd rfl h
  op := by simp [State.OpOk, polled, midway, codeWait]
  count := by simp [State.CountOk, polled, midway, codeWait, codeWrite]
  frame := rfl
  status := by decide
  poll _ := ⟨rfl, rfl⟩
  contract := by simp [State.ContractOk, polled, midway, codeWait, codeRead, codeWrite, codeEraseSector]

theorem test_writing_inv : writing.Inv where
  memory := rfl
  select := rfl
  transfer h := absurd rfl h
  op := rfl
  count := by simp [State.CountOk, writing, midway, pageOffset, pageSize]
  frame := ⟨0x0000FE#24, [0x11#8], by unfold State.ProgramFrame; decide⟩
  status := by decide
  poll _ := ⟨rfl, rfl⟩
  contract := by simp [State.ContractOk, writing, midway, codeWrite, codeEraseSector, State.reset, Params.reference,
    Seq.polling, Seq.enabling]

theorem test_writing_quiet : writing.ChipQuiet := fun _ => ⟨fun _ => rfl, fun _ _ => rfl⟩

theorem test_closing_inv : closing.Inv where
  memory := rfl
  select := rfl
  transfer h := absurd rfl h
  op := by simp [State.OpOk, closing, midway, codeWrite]
  count := by simp [State.CountOk, closing, midway, codeWrite, codeRead, State.reset]
  frame := ⟨fun h => absurd h (by decide),
    fun _ => ⟨0x000010#24, [0x5A#8], by unfold State.ProgramFrame; decide, .inl (by decide)⟩,
    fun h => absurd h (by decide), fun h => absurd h (by decide)⟩
  status := by decide
  poll _ := ⟨rfl, rfl⟩
  contract := by simp [State.ContractOk, closing, midway, codeWrite, codeEraseSector, State.reset, Params.reference,
    Seq.polling, Seq.enabling]

theorem test_closing_quiet : closing.ChipQuiet := fun _ => ⟨fun _ => rfl, fun _ _ => rfl⟩

/-! ## Witnesses: hypotheses that are met -/

/-- An idle block with a request of each kind at the port. -/
theorem test_witness_StepExecutesTheRequestAtThePort :
    let s := offering [0x10000FE000004#51, 0x4000000000000#51] [0x11#8]
    s.rst = false ∧ s.seq = .idle ∧ s.requests = 0x10000FE000004#51 :: [0x4000000000000#51] ∧
      decode (.request 0x10000FE000004#51) = .ok (.writeReq 0x0000FE#24 4#24) := ⟨rfl, rfl, rfl, rfl⟩

theorem test_witness_EncodeOfDecodedRequestIsTheWord :
    decode (.request 0x5FFFFFFFFFFFF#51) = .ok (.enableWriteReq 0xFFFFFF#24 0xFFFFFF#24) := rfl

/-- A frame with receive positions and one without. -/
theorem test_witness_EncodeOfDecodedFrameIsTheFrame :
    decode (.frame [0x05#8, 0xFF#8]) = .ok .rdsr ∧ decode (.frame [0x03#8, 0#8, 0#8, 0#8]) = .ok (.readData 0#24 0) ∧
      decode (.frame [0x02#8, 0#8, 0#8, 0#8]) = .ok (.pp 0#24 []) := ⟨rfl, rfl, rfl⟩

/-- Bytes of each of the rejected kinds at the edge of their length. -/
theorem test_witness_ForeignFramesAreRejected :
    (0x00#8 : Byte) ∉ [opcPP, opcREAD, opcRDSR, opcWREN, opcBE, opcSE] ∧ ([] : List Byte).length ≠ 1 ∧
      ([0#8, 0#8] : List Byte).length ≠ 1 ∧ ([0#8] : List Byte).length ≠ 0 ∧ ([0#8, 0#8] : List Byte).length ≠ 3 ∧
      ([0#8, 0#8, 0#8, 0#8] : List Byte).length ≠ 3 ∧ ([0#8, 0#8] : List Byte).length < 3 := by decide

/-- Frames about to be closed in each of the three states. -/
theorem test_witness_StepExecutesTheFrameBeingClosed :
    (polled codeWait 0x00#8).rst = false ∧ (polled codeWait 0x00#8).seq ∈ [Seq.pDes, Seq.wDes, Seq.cDes] ∧
      decode (.frame (polled codeWait 0x00#8).sent) = .ok .rdsr ∧
      (midway .wDes codeWrite [0x06#8]).seq ∈ [Seq.pDes, Seq.wDes, Seq.cDes] ∧
      decode (.frame (midway .wDes codeWrite [0x06#8]).sent) = .ok .wren ∧
      closing.seq ∈ [Seq.pDes, Seq.wDes, Seq.cDes] ∧ decode (.frame closing.sent) = .ok (.pp 0x10#24 [0x5A#8]) :=
  ⟨rfl, by decide, rfl, by decide, rfl, by decide, rfl⟩

theorem test_witness_IdleBlockStaysSilent : State.reset.rst = false ∧ State.reset.seq = .idle ∧ State.reset.requests = [] :=
  ⟨rfl, rfl, rfl⟩

/-- Each clause of acceptance at the edge of its operands: the last byte, no byte, an address past the array read literally. -/
theorem test_witness_AcceptanceLoadsTheRequest :
    State.reset.seq = .idle ∧ rangeTaken State.reset 0x1FFFFF#24 1#24 ∧ polls State.reset 1#24 ∧
      rangeTaken State.reset 0x1FFFFF#24 0#24 ∧ ¬ polls State.reset 0#24 ∧ (0x1FFFFF#24 : Addr).toNat < State.reset.params.capacity ∧
      rangeTaken (literally State.reset) 0xFFFFFF#24 1#24 ∧
      polls { State.reset with params := { State.reset.params with zeroLenWriteEmitsFrame := true } } 0#24 := by
  simp [rangeTaken, polls, State.reset, Params.reference, literally]

/-- A word in contract at the edge of the array, and a reserved one taken literally. -/
theorem test_witness_AcceptanceLoadsWhateverTheRequest :
    let s := offering [0x01FFFFF000001#51] []
    let u := literally (offering [0x7FFFFFFFFFFFF#51] [])
    s.rst = false ∧ s.seq = .idle ∧ s.requests = [0x01FFFFF000001#51] ∧ wordInContract s.params 0x01FFFFF000001#51 = true ∧
      u.requests = [0x7FFFFFFFFFFFF#51] ∧ u.params.outOfContract = .literal := by decide

theorem test_witness_OutOfContractRequestsAreRefused :
    State.reset.seq = .idle ∧ State.reset.params.outOfContract = .refuse ∧
      ((0x1FFFFF#24 : Addr).toNat < State.reset.params.capacity ∧
        (0x1FFFFF#24 : Addr).toNat + (1#24 : Len).toNat ≤ State.reset.params.capacity) ∧
      ¬ ((0x1FFFFF#24 : Addr).toNat + (2#24 : Len).toNat ≤ State.reset.params.capacity) ∧
      ¬ (0x200000#24 : Addr).toNat < State.reset.params.capacity := by decide

theorem test_witness_ReservedCodesAreRefusedOrCompleteAtOnce :
    let s := offering [0x6000000000000#51] []
    s.rst = false ∧ s.seq = .idle ∧ s.requests = [0x6000000000000#51] ∧ reqCode 0x6000000000000#51 = 6#3 ∧
      s.params.outOfContract = .refuse ∧ (literally s).params.outOfContract = .literal := by decide

theorem test_witness_RequestsWaitWhileBusy : writing.seq ≠ .idle ∧ (next? (step writing)).isSome = true := by decide

theorem test_witness_ZeroLengthWriteTouchesNothing :
    let s := offering [packRequest codeWrite 0x1FFFFF#24 0#24] [0x11#8]
    s.rst = false ∧ s.seq = .idle ∧ s.requests = packRequest codeWrite 0x1FFFFF#24 0#24 :: [] ∧
      (0x1FFFFF#24 : Addr).toNat < s.params.capacity ∧ s.params.zeroLenWriteEmitsFrame = false := by decide

theorem test_witness_RdsrKeepsTheStatusByte :
    let s := polled codeWait 0x03#8
    s.transport ≠ .unfaithful ∧ s.frame = [{ tx := 0x05#8, rx := none }, { tx := 0x00#8, rx := some 0x03#8 }] := by decide

theorem test_witness_WrenSetsTheLatch :
    let s := midway .wDes codeWrite [0x06#8]
    s.transport ≠ .unfaithful ∧ s.chip.wip = false := by decide

/-- A frame of the last byte, and one without data. -/
theorem test_witness_ReadFrameHasNoSideEffect :
    reading.transport ≠ .unfaithful ∧ reading.chip.wip = false ∧ (0x1FFFFF#24 : Addr).toNat < reading.params.capacity ∧
      (0x1FFFFF#24 : Addr).toNat + 1 ≤ reading.params.capacity ∧ (0x1FFFFF#24 : Addr).toNat + 0 ≤ reading.params.capacity := by
  decide

/-- One byte in the last page, and 256 bytes from its middle: the frame fits its page, or wraps in it. -/
theorem test_witness_PageProgramClearsBitsInItsPage :
    closing.transport ≠ .unfaithful ∧ closing.chip.wel = true ∧ closing.chip.wip = false ∧
      Mem.wf closing.params.capacity closing.chip.mem = true ∧ (List.replicate 256 0x00#8).length ≤ 256 ∧
      1 ≤ [0x5A#8].length ∧ (∀ k, k < 1 → (0x1FFFFF#24 : Addr).toNat / 256 * 256 +
        ((0x1FFFFF#24 : Addr).toNat % 256 + k) % 256 < closing.params.capacity) ∧
      (∀ k, k < 256 → (0x1FFF80#24 : Addr).toNat / 256 * 256 +
        ((0x1FFF80#24 : Addr).toNat % 256 + k) % 256 < closing.params.capacity) ∧
      (0x1FFFFF#24 : Addr).toNat % 256 + 1 ≤ 256 := by
  refine ⟨by decide, rfl, rfl, rfl, by rw [List.length_replicate], by decide, fun k _ => ?_, fun k _ => ?_, by decide⟩ <;>
    simp [closing, midway, State.reset, Params.reference] <;> omega

theorem test_witness_SectorEraseErasesItsSector :
    closing.transport ≠ .unfaithful ∧ closing.chip.wel = true ∧ closing.chip.wip = false ∧
      Mem.wf closing.params.capacity closing.chip.mem = true ∧ (0x1FFFFF#24 : Addr).toNat < closing.params.capacity ∧
      0 < closing.params.sectorSize := by decide

theorem test_witness_BulkEraseErasesTheArray :
    closing.transport ≠ .unfaithful ∧ closing.chip.wel = true ∧ closing.chip.wip = false := by decide

theorem test_witness_StatusByteShowsTheBusyBit :
    let s := midway .pSta codeWait [0x05#8]
    s.rst = false ∧ s.seq = .pSta ∧ s.transport ≠ .stalled ∧ s.frame = [{ tx := opcRDSR, rx := none }] ∧
      s.transport = .faithful := by decide

/-- The last byte of the array. -/
theorem test_witness_ReadByteComesFromTheArray :
    reading.rst = false ∧ reading.seq = .cRd ∧ reading.transport ≠ .stalled ∧
      reading.sent = header opcREAD 0x1FFFFF#24 ++ List.replicate 0 reading.params.dummyTx ∧ reading.transport = .faithful ∧
      reading.chip.wip = false ∧ (0x1FFFFF#24 : Addr).toNat + 0 < reading.params.capacity := by decide

theorem test_witness_PollSendsOneReadStatusFrame :
    let s := midway .pSel codeWait []
    s.rst = false ∧ s.seq = .pSel ∧ s.transport ≠ .stalled := by decide

/-- Each clause: busy below the limit, busy at the limit, idle. -/
theorem test_witness_PollEndsOnlyOnBitZero :
    let s := polled codeRead 0x01#8
    let u := { bounded 3 s with pollCnt := 3 }
    let v := polled codeEnableWrite 0xFE#8
    s.rst = false ∧ s.seq = .pDes ∧ s.op.toNat ≤ 5 ∧
      s.frame = [{ tx := opcRDSR, rx := none }, { tx := s.params.dummyTx, rx := some s.srShadow }] ∧
      s.srShadow.getLsbD 0 = true ∧ s.params.pollLimit ≠ some s.pollCnt ∧
      u.frame = [{ tx := opcRDSR, rx := none }, { tx := u.params.dummyTx, rx := some u.srShadow }] ∧
      u.srShadow.getLsbD 0 = true ∧ u.params.pollLimit = some u.pollCnt ∧
      v.op.toNat ≤ 5 ∧ v.frame = [{ tx := opcRDSR, rx := none }, { tx := v.params.dummyTx, rx := some v.srShadow }] ∧
      v.srShadow.getLsbD 0 = false := by decide

/-- Each half: a write-enable frame about to start, and steps that enter W_SEL. -/
theorem test_witness_WriteEnableFrameThenCommand :
    let s := midway .wSel codeWrite []
    s.rst = false ∧ s.seq = .wSel ∧ s.transport ≠ .stalled ∧ s.transport = .faithful ∧ s.chip.wip = false ∧
      (next? (step (polled codeWrite 0xFE#8))).map (·.seq) = some .wSel ∧
      (next? (step (polled codeEnableWrite 0x00#8))).map (·.seq) = some .wSel := by decide

theorem test_witness_HeaderGoesMostSignificantFirst :
    commanding.rst = false ∧ commanding.seq = .cSel ∧ commanding.transport ≠ .stalled ∧ commanding.op.toNat ≤ 2 ∧
      (midway .cSel codeEraseSector []).op.toNat ≤ 2 := by decide

/-- Each form: the byte at the port, and one that a stalled step has taken. -/
theorem test_witness_WriteByteIsTakenSentAndCounted :
    let s := { writing with outstanding := some 0x22#8, wdata := [0x33#8, 0x44#8] }
    writing.rst = false ∧ writing.seq = .cWr ∧ writing.transport ≠ .stalled ∧
      (writing.outstanding = none ∧ writing.wdata.head? = some 0x22#8 ∧ [Event.taken 0x22#8] = [.taken 0x22#8]) ∧
      s.rst = false ∧ s.seq = .cWr ∧ s.transport ≠ .stalled ∧
      (s.outstanding = some 0x22#8 ∧ ([] : List Event) = []) := by decide

theorem test_witness_WriteWaitsForTheClient :
    let s := { writing with wdata := [] }
    s.Inv ∧ s.rst = false ∧ s.seq = .cWr ∧ s.outstanding = none ∧ s.wdata = [] ∧ s.chip.wip = false := by
  refine ⟨?_, rfl, rfl, rfl, rfl, rfl⟩
  obtain ⟨h1, h2, h3, h4, h5, h6, h7, h8, h9⟩ := test_writing_inv
  exact ⟨h1, h2, h3, h4, h5, h6, h7, h8, h9⟩

theorem test_witness_CommandFrameEndsTheRequestOrPolls : closing.rst = false ∧ closing.seq = .cDes := by decide

theorem test_witness_FinSignalsDoneOnce : (midway .fin codeWait []).rst = false ∧ (midway .fin codeWait []).seq = .fin := by decide

/-- A transfer held, and a wait for the client's byte. -/
theorem test_witness_StalledTransferIsHeld :
    let s := { writing with transport := .stalled }
    let u := { writing with transport := .stalled, wdata := [] }
    (s.rst = false ∧ s.transport = .stalled ∧ s.seq.transfers = true ∧ s.Inv ∧ s.btTx = some 0x22#8) ∧
      u.rst = false ∧ u.transport = .stalled ∧ u.seq.transfers = true ∧ u.Inv ∧ u.btTx = none := by
  obtain ⟨h1, h2, h3, h4, h5, h6, h7, h8, h9⟩ := test_writing_inv
  exact ⟨⟨rfl, rfl, rfl, ⟨h1, h2, h3, h4, h5, h6, h7, h8, h9⟩, rfl⟩, rfl, rfl, rfl, ⟨h1, h2, h3, h4, h5, h6, h7, h8, h9⟩, rfl⟩

/-- The last byte of a page with one byte and with two; V36. -/
theorem test_witness_ChunkStaysInItsPage : (1#24 : Len) ≠ 0#24 ∧ chunkSize 0x1FFFFF#24 1#24 = 1 ∧
    chunkSize 0x0000FF#24 2#24 < (2#24 : Len).toNat := by decide

/-- V27: two chunks; V36: one; V34: four, so that there are chunks in the middle. -/
theorem test_witness_SplitHasTheClosedForm :
    (4#24 : Len) ≠ 0#24 ∧ (0x0000FE#24 : Addr).toNat + (4#24 : Len).toNat ≤ 2 ^ 24 ∧ (4#24 : Len).toNat ≤ 4 ∧
      splitWrite 4 0x0000FE#24 4#24 = [(0x0000FE#24, 2), (0x000100#24, 2)] ∧
      splitWrite 1 0x1FFFFF#24 1#24 = [(0x1FFFFF#24, 1)] ∧
      splitWrite 4 0x0001F0#24 600#24 = [(0x0001F0#24, 16), (0x000200#24, 256), (0x000300#24, 256), (0x000400#24, 72)] := by
  decide

/-- With a frame open and without, the chip idle and busy. -/
theorem test_witness_RstOverridesEveryTransition :
    let s := { midway .pSta codeWait [0x05#8] with rst := true, pace := .never, chip := { mem := [], wel := false, wip := true } }
    s.rst = true ∧ s.btSelect = true ∧ s.tick.chip.wip = true ∧ ({ State.reset with rst := true }).rst = true ∧
      ({ State.reset with rst := true }).btSelect = false := by decide

theorem test_witness_StepKeepsTheInvariant : writing.Inv ∧ ∃ t, step writing = .next t :=
  ⟨test_writing_inv, _, rfl⟩

theorem test_witness_StepKeepsTheChipQuiet : closing.Inv ∧ closing.ChipQuiet ∧ ∃ t, step closing = .next t :=
  ⟨test_closing_inv, test_closing_quiet, _, rfl⟩

theorem test_witness_StepNeverFaults : (polled codeWait 0x00#8).Inv := test_polled_inv

theorem test_witness_RefusalOnlyAtAcceptance :
    ∃ r, step (offering [0x01FFFFF000002#51] []) = .refused r := ⟨_, rfl⟩

/-- In contract, and (the first half alone) with requests taken literally. -/
theorem test_witness_ClosedFramesAreWellFormed :
    (closing.Inv ∧ closing.seq ∈ [Seq.pDes, Seq.wDes, Seq.cDes] ∧ closing.params.outOfContract = .refuse ∧
      closing.params.zeroLenWriteEmitsFrame = false) ∧
      (literally (polled codeWait 0x00#8)).Inv ∧ (literally (polled codeWait 0x00#8)).seq ∈ [Seq.pDes, Seq.wDes, Seq.cDes] ∧
      (literally (polled codeWait 0x00#8)).params.outOfContract ≠ .refuse := by
  refine ⟨⟨test_closing_inv, by decide, rfl, rfl⟩, ?_, by decide, by decide⟩
  obtain ⟨h1, h2, h3, h4, h5, h6, h7, h8, -⟩ := test_polled_inv
  exact ⟨h1, h2, h3, h4, h5, h6, h7, h8, by intro h; cases h⟩

theorem test_witness_OnlySixOpcodesAreSent :
    writing.Inv ∧ ∃ x rest, writing.frame = x :: rest := ⟨test_writing_inv, _, _, rfl⟩

/-- A step with each of the three bus events. -/
theorem test_witness_FramesNeverOverlap :
    (writing.Inv ∧ ∃ t, step writing = .next t) ∧ (closing.Inv ∧ ∃ t, step closing = .next t) ∧
      (next? (step commanding)).map (·.events) = some [.sel] ∧
      (next? (step writing)).map (·.events) = some [.taken 0x22#8, .xfer 0x22#8 none] ∧
      (next? (step closing)).map (·.events) = some [.des] :=
  ⟨⟨test_writing_inv, _, rfl⟩, ⟨test_closing_inv, _, rfl⟩, by decide, by decide, by decide⟩

/-- A step to W_SEL and a step to C_SEL from a poll that read bit 0 = 0. -/
theorem test_witness_CommandOnlyAfterAnIdlePoll :
    ((polled codeWait 0x00#8).Inv ∧ ∃ t, step (polled codeWait 0x00#8) = .next t) ∧
      (next? (step (polled codeEraseAll 0x00#8))).map (·.seq) = some .wSel ∧
      (next? (step (polled codeRead 0x00#8))).map (·.seq) = some .cSel :=
  ⟨⟨test_polled_inv, _, rfl⟩, by decide, by decide⟩

theorem test_witness_OpIsFixedWhileBusy : writing.rst = false ∧ writing.seq ≠ .idle ∧ ∃ t, step writing = .next t :=
  ⟨rfl, by decide, _, rfl⟩

theorem test_witness_DataMovesOnlyInItsState : (∃ t, step writing = .next t) ∧ ∃ t, step reading = .next t :=
  ⟨⟨_, rfl⟩, _, rfl⟩

theorem test_witness_ChipChangesOnlyByCommand :
    closing.Inv ∧ closing.ChipQuiet ∧ closing.transport ≠ .unfaithful ∧ closing.rst = false ∧
      ∃ t, step closing = .next t ∧ closing.chip.wip = false ∧ t.chip.wip = true :=
  ⟨test_closing_inv, test_closing_quiet, by decide, rfl, _, rfl, by decide, by decide⟩

/-- A set flag is met, and a machine without a limit. -/
theorem test_witness_TimeoutIsStickyAndNeedsALimit :
    let s := { State.reset with timeoutErr := true }
    s.rst = false ∧ s.timeoutErr = true ∧ (∃ t, step s = .next t) ∧ State.reset.params.pollLimit = none ∧
      State.reset.timeoutErr = false ∧ ∃ t, step State.reset = .next t :=
  ⟨rfl, rfl, ⟨_, rfl⟩, rfl, rfl, _, rfl⟩

theorem test_witness_WaitCompletesOnAnIdleChip :
    let s := offering [packRequest codeWait 1#24 2#24] []
    s.rst = false ∧ s.seq = .idle ∧ s.requests = packRequest codeWait 1#24 2#24 :: [] ∧ s.transport = .faithful ∧
      s.chip.wip = false := by decide

theorem test_witness_EnableWriteLeavesTheLatchSet :
    let s := offering [packRequest codeEnableWrite 0#24 0#24] []
    s.rst = false ∧ s.seq = .idle ∧ s.requests = packRequest codeEnableWrite 0#24 0#24 :: [] ∧ s.transport = .faithful ∧
      s.chip.wip = false := by decide

theorem test_witness_EraseAllErasesTheArray :
    let s := offering [packRequest codeEraseAll 0#24 0#24] []
    s.rst = false ∧ s.seq = .idle ∧ s.requests = packRequest codeEraseAll 0#24 0#24 :: [] ∧ s.transport = .faithful ∧
      s.chip.wip = false := by decide

theorem test_witness_EraseSectorErasesItsSector :
    let s := offering [packRequest codeEraseSector 0x1FFFFF#24 0#24] []
    s.rst = false ∧ s.seq = .idle ∧ s.requests = packRequest codeEraseSector 0x1FFFFF#24 0#24 :: [] ∧
      s.transport = .faithful ∧ s.chip.wip = false ∧ Mem.wf s.params.capacity s.chip.mem = true ∧
      (0x1FFFFF#24 : Addr).toNat < s.params.capacity ∧ 0 < s.params.sectorSize := by decide

/-- V15 and V18: no byte, and the last byte of the array. -/
theorem test_witness_ReadDeliversTheArray :
    let s := offering [packRequest codeRead 0x1FFFFF#24 1#24] []
    let u := offering [packRequest codeRead 0x012345#24 0#24] []
    (s.rst = false ∧ s.seq = .idle ∧ s.requests = packRequest codeRead 0x1FFFFF#24 1#24 :: [] ∧ s.transport = .faithful ∧
      s.chip.wip = false ∧ (0x1FFFFF#24 : Addr).toNat < s.params.capacity ∧
      (0x1FFFFF#24 : Addr).toNat + (1#24 : Len).toNat ≤ s.params.capacity) ∧
    u.rst = false ∧ u.seq = .idle ∧ u.requests = packRequest codeRead 0x012345#24 0#24 :: [] ∧ u.transport = .faithful ∧
      u.chip.wip = false ∧ (0x012345#24 : Addr).toNat < u.params.capacity ∧
      (0x012345#24 : Addr).toNat + (0#24 : Len).toNat ≤ u.params.capacity := by decide

/-- V27 after its first byte. -/
theorem test_witness_EveryStepOfAWriteKeepsItsProgress :
    writing.Inv ∧ writing.ChipQuiet ∧ writing.transport ≠ .unfaithful ∧ writing.rst = false ∧
      writing.params.outOfContract = .refuse ∧ writing.params.capacity ≤ 2 ^ 24 ∧
      0xFE + [0x11#8, 0x22#8, 0x33#8, 0x44#8].length ≤ writing.params.capacity ∧
      writing.Writing [] 0xFE [0x11#8, 0x22#8, 0x33#8, 0x44#8] [] 0 1 ∧ ∃ t, step writing = .next t := by
  refine ⟨test_writing_inv, test_writing_quiet, by decide, rfl, rfl, by decide, by decide, ?_, _, rfl⟩
  refine ⟨rfl, by decide, by decide, by decide, by decide, rfl, rfl, rfl, fun x => ?_, by decide⟩
  simp [programmed]; rfl

/-- V35, a write that ends with the array: on a chip that finishes at once with a limit on polls, and without one on a chip that is busy and
takes its time. -/
theorem test_witness_WriteProgramsTheWholeRange :
    let s := bounded 3 (offering [packRequest codeWrite 0x1FFFFF#24 1#24] [0x11#8, 0x22#8])
    let u := slowly (offering [packRequest codeWrite 0x1FFFFF#24 1#24] [0x11#8, 0x22#8])
    (s.Inv ∧ s.ChipFinishes ∧ s.rst = false ∧ s.seq = .idle ∧ s.requests = packRequest codeWrite 0x1FFFFF#24 1#24 :: [] ∧
      s.TransportLive ∧ s.TransportFaithful ∧ s.pace = .prompt ∧ s.params.outOfContract = .refuse ∧
      s.params.capacity ≤ 2 ^ 24 ∧ (1#24 : Len) ≠ 0#24 ∧ (0x1FFFFF#24 : Addr).toNat + (1#24 : Len).toNat ≤ s.params.capacity ∧
      [0x11#8].length = (1#24 : Len).toNat ∧ s.wdata = [0x11#8] ++ [0x22#8]) ∧
    u.Inv ∧ u.ChipFinishes ∧ u.rst = false ∧ u.seq = .idle ∧ u.requests = packRequest codeWrite 0x1FFFFF#24 1#24 :: [] ∧
      u.TransportLive ∧ u.TransportFaithful ∧ u.params.pollLimit = none ∧ u.params.outOfContract = .refuse ∧
      u.params.capacity ≤ 2 ^ 24 ∧ u.wdata = [0x11#8] ++ [0x22#8] ∧ u.chip.wip = true :=
  ⟨⟨test_bounded_inv _ _, State.chipFinishes_of_prompt rfl, by decide⟩, test_slowly_inv _ _,
    State.chipFinishes_of_every rfl, by decide⟩

/-- P1's write and read, on a chip that is busy at first and takes its time. -/
theorem test_witness_WriteThenReadGivesTheDataBack :
    let s := slowly (offering [packRequest codeWrite 0x0000FE#24 2#24, packRequest codeRead 0x0000FE#24 2#24] [0x11#8, 0x22#8])
    s.Inv ∧ s.ChipFinishes ∧ s.rst = false ∧ s.seq = .idle ∧
      s.requests = packRequest codeWrite 0x0000FE#24 2#24 :: packRequest codeRead 0x0000FE#24 2#24 :: [] ∧
      s.TransportLive ∧ s.TransportFaithful ∧ s.params.pollLimit = none ∧ s.params.outOfContract = .refuse ∧
      s.params.capacity ≤ 2 ^ 24 ∧ (2#24 : Len) ≠ 0#24 ∧ (0x0000FE#24 : Addr).toNat + (2#24 : Len).toNat ≤ s.params.capacity ∧
      [0x11#8, 0x22#8].length = (2#24 : Len).toNat ∧ s.wdata = [0x11#8, 0x22#8] ++ [] ∧
      Erased s.chip.mem (0x0000FE#24 : Addr).toNat (2#24 : Len).toNat :=
  ⟨test_slowly_inv _ _, State.chipFinishes_of_every rfl, rfl, rfl, rfl, by decide, by decide, rfl, rfl, by decide, by decide,
    by decide, rfl, rfl, fun _ _ => rfl⟩

theorem test_witness_HungChipIsPolledForEver :
    let s := hung (midway .pSel codeRead [])
    s.rst = false ∧ s.seq = .pSel ∧ s.transport = .faithful ∧ s.pace = .never ∧ s.chip.wip = true ∧
      s.params.pollLimit = none := by decide

/-- V51, and a WRITE. -/
theorem test_witness_BoundedPollGivesUpAtItsLimit :
    let w := packRequest codeRead 0#24 3#24
    let v := packRequest codeWrite 0x1FFFFF#24 1#24
    let s := hung (bounded 3 (offering [w] []))
    let u := hung (bounded 1 (offering [v] []))
    (s.rst = false ∧ s.seq = .idle ∧ s.requests = w :: [] ∧ s.TransportLive ∧ s.TransportFaithful ∧ s.pace = .never ∧
      s.chip.wip = true ∧ s.params.pollLimit = some 3 ∧ 1 ≤ 3 ∧ wordInContract s.params w = true ∧ (reqCode w).toNat ≤ 5 ∧
      reqCode w ≠ codeWrite) ∧
    u.rst = false ∧ u.seq = .idle ∧ u.requests = v :: [] ∧ u.params.pollLimit = some 1 ∧ u.chip.wip = true ∧
      u.pace = .never ∧ wordInContract u.params v = true ∧ (reqCode v).toNat ≤ 5 ∧ polls u (reqLen v) := by
  refine ⟨by decide, rfl, rfl, rfl, rfl, rfl, rfl, by decide, by decide, .inl (by decide)⟩

end Sys2Proof.Tests
end

section

namespace Sys2Proof.Machine

open Sys2Proof.Claims

/-! ## The write-enable frame (R145, R215) -/

/-- In W_CMD the byte is exchanged in one step where the transport completes it (R196). -/
theorem step_wCmd_of_live {s : State} (hr : s.rst = false) (hs : s.seq = .wCmd) (hl : s.transport ≠ .stalled) :
    step s = .next ((s.tick.exchange opcWREN none).goTo .wDes) := by
  rw [step_wCmd hr hs, rowWCmd, transferOut, if_neg (by simpa using hl)]

/-- In W_DES a complete write-enable frame is closed and the chip reacts to it (R112, R215). -/
theorem step_wDes_of_wren {s : State} (hr : s.rst = false) (hs : s.seq = .wDes) (hf : s.sent = [opcWREN]) :
    step s = .next (afterWDes (s.tick.closeFrame s.tick.chip.onWren)) := by
  have hfetch : s.tick.fetch = .instr .wren s.tick := by
    have hd : decode (.frame s.tick.sent) = .ok .wren := by
      rw [show s.tick.sent = [opcWREN] from hf]; rfl
    simp only [State.fetch, State.tick_seq, hs, hd]
  rw [step_of_no_rst hr, stepBlock, hfetch]
  simp only [exec, execWren, andThen_next, afterInstr, State.closeFrame_seq, State.tick_seq, hs]

/-- `s` with the write-enable frame sent and not yet closed: what W_SEL and W_CMD do. -/
def State.enableSent (s : State) : State :=
  ((s.tick.select.goTo .wCmd).tick.exchange opcWREN none).goTo .wDes

@[simp] theorem State.enableSent_op (s : State) : s.enableSent.op = s.op := rfl
@[simp] theorem State.enableSent_curAddr (s : State) : s.enableSent.curAddr = s.curAddr := rfl
@[simp] theorem State.enableSent_remaining (s : State) : s.enableSent.remaining = s.remaining := rfl
@[simp] theorem State.enableSent_chunk (s : State) : s.enableSent.chunk = s.chunk := rfl
@[simp] theorem State.enableSent_srShadow (s : State) : s.enableSent.srShadow = s.srShadow := rfl
@[simp] theorem State.enableSent_events (s : State) :
    s.enableSent.events = s.events ++ [.sel] ++ [.xfer opcWREN none] := rfl

/-- From W_SEL the frame is opened, sent and closed in three steps (R145). -/
theorem runSteps_three_of_wSel {s : State} (hr : s.rst = false) (hs : s.seq = .wSel) (hl : s.transport ≠ .stalled) :
    runSteps 3 s = .next (afterWDes (s.enableSent.tick.closeFrame s.enableSent.tick.chip.onWren)) := by
  have hsel : step s = .next (s.tick.select.goTo .wCmd) := step_wSel hr hs
  have hcmd : step (s.tick.select.goTo .wCmd) = .next s.enableSent := step_wCmd_of_live hr rfl hl
  have hdes : step s.enableSent = .next (afterWDes (s.enableSent.tick.closeFrame s.enableSent.tick.chip.onWren)) :=
    step_wDes_of_wren hr rfl rfl
  simp only [runSteps, hsel, hcmd, hdes, andThen_next]

/-- An idle chip is still the same when the write-enable frame has been sent (R214). -/
theorem State.enableSent_tick_chip_of_idle {s : State} (h : s.chip.wip = false) : s.enableSent.tick.chip = s.chip := by
  have hsel : (s.tick.select.goTo .wCmd).chip = s.chip := State.tick_chip_of_idle h
  have hcmd : s.enableSent.chip = s.chip :=
    (State.tick_chip_of_idle (s := s.tick.select.goTo .wCmd) (by rw [hsel, h])).trans hsel
  rw [State.tick_chip_of_idle (by rw [hcmd, h]), hcmd]

/-- The latch of an idle chip is set by a write-enable frame that is delivered (R215). -/
theorem State.react_onWren_of_idle {s : State} {c : Chip} (ht : s.transport = .faithful) (h : c.wip = false) :
    s.react c.onWren = { mem := c.mem, wel := true, wip := false } := by
  simp [Chip.onWren, h, State.react, ht]

/-- The size of the chunk that W_DES loads, and that only a WRITE loads one (R145, R161). -/
theorem State.loadChunk_chunk_toNat (s : State) :
    s.loadChunk.chunk.toNat = if s.op = codeWrite then chunkSize s.curAddr s.remaining else s.chunk.toNat := by
  unfold State.loadChunk
  split
  · exact chunk_register _ _
  · rfl

/-! ## Where W_SEL is entered from (R145) -/

/-- A transfer out leads to `q` only from `q`, or by what follows the transfer. -/
theorem transferOut_seq_ne {t : Byte} {f : State → State} {s : State} {q : Seq} (hs : s.seq ≠ q)
    (hf : (f (s.exchange t none)).seq ≠ q) : (transferOut t f s).seq ≠ q := by
  rcases transferOut_cases t f s with ⟨_, h⟩ | ⟨_, h⟩ <;> rw [h]
  · exact hs
  · exact hf

/-- A transfer in leads to `q` only from `q`, or by what follows the transfer. -/
theorem transferIn_seq_ne {f : Byte → State → State} {s : State} {q : Seq} (hs : s.seq ≠ q)
    (hf : (f s.received (s.exchange s.params.dummyTx (some s.received))).seq ≠ q) : (transferIn f s).seq ≠ q := by
  rcases transferIn_cases f s with ⟨_, h⟩ | ⟨_, h⟩ <;> rw [h]
  · exact hs
  · exact hf

/-- Acceptance leads to P_SEL or FIN (R191). -/
theorem State.leaveIdle_seq_ne_wSel (s : State) : s.leaveIdle.seq ≠ .wSel := by
  rcases leaveIdle_cases s with ⟨_, _, _, h⟩ | ⟨_, h⟩ | ⟨_, _, h⟩ <;> rw [h] <;> simp

/-- C_A0 leads on in the command frame (R191). -/
theorem afterHeader_ne_wSel {s : State} {q : Seq} (h : afterHeader s = some q) : q ≠ .wSel := by
  unfold afterHeader at h
  grind

/-- No row at which no instruction is executed leads to W_SEL. -/
theorem stepRow_seq_ne_wSel {s t : State} (h : stepRow s = .next t) : t.seq ≠ .wSel := by
  cases hs : s.seq <;> simp only [stepRow, hs] at h
  case cOp =>
    unfold rowCOp at h
    split at h <;> cases h
    refine transferOut_seq_ne (by simp [hs]) ?_
    rw [State.goTo_seq]; split <;> simp
  case cA0 =>
    unfold rowCA0 at h
    split at h <;> cases h
    exact transferOut_seq_ne (by simp [hs]) (afterHeader_ne_wSel ‹_›)
  case cWr =>
    cases h
    rcases rowCWr_cases s with ⟨_, _, h⟩ | ⟨d, u, h, hu⟩ <;> rw [h]
    · simp [hs]
    · have hq : u.seq = .cWr := by rcases hu with ⟨_, rfl⟩ | ⟨_, _, _, rfl⟩ <;> exact hs
      refine transferOut_seq_ne (by simp [hq]) ?_
      rw [State.goTo_seq]; split <;> simp
  case cRd =>
    cases h
    refine transferIn_seq_ne (by simp [hs]) ?_
    rw [State.goTo_seq]; split <;> simp
  case pSta => cases h; exact transferIn_seq_ne (by simp [hs]) (by simp)
  case pCmd | wCmd | cA2 | cA1 => cases h; exact transferOut_seq_ne (by simp [hs]) (by simp)
  case pSel | wSel | cSel | fin => cases h; simp [rowPSel, rowWSel, rowCSel, rowFin]
  case idle | pDes | wDes | cDes => cases h; simp [hs]

/-- P_DES leads to W_SEL only where the status byte had bit 0 = 0 (R145). -/
theorem afterPDes_wSel_idle {s t : State} (h : afterPDes s = .next t) (ht : t.seq = .wSel) : t.wipSeen = false := by
  rcases afterPDes_cases h with ⟨_, _, rfl⟩ | ⟨_, _, rfl⟩ | ⟨_, _, rfl⟩ | ⟨_, _, rfl⟩ | ⟨hw, _, _, _, rfl⟩
  case inr.inr.inr.inr => exact hw
  all_goals simp at ht

/-- Of the three rows that close a frame only that of P_DES leads to W_SEL, and only from an idle status byte (R145, R191). -/
theorem afterInstr_wSel {s t : State} (h : afterInstr s = .next t) (hs : s.seq = .pDes ∨ s.seq = .wDes ∨ s.seq = .cDes)
    (ht : t.seq = .wSel) : s.seq = .pDes ∧ t.wipSeen = false := by
  rcases hs with hs | hs | hs <;> simp only [afterInstr, hs] at h
  · exact ⟨hs, afterPDes_wSel_idle h ht⟩
  · cases h
    rw [afterWDes, State.goTo_seq] at ht
    split at ht <;> cases ht
  · cases h
    rcases afterCDes_cases s with ⟨_, _, h⟩ | ⟨_, h⟩ <;> rw [h] at ht <;> cases ht

/-- W_SEL is entered only from P_DES with bit 0 of the status byte 0 (R145). -/
theorem step_wSel_only_from_idle_poll {s t : State} (h : step s = .next t) (ht : t.seq = .wSel) :
    s.seq = .pDes ∧ t.wipSeen = false := by
  cases hr : s.rst with
  | true => rw [step_of_rst hr] at h; cases h; cases ht
  | false =>
    by_cases hc : s.seq = .pDes ∨ s.seq = .wDes ∨ s.seq = .cDes
    · obtain ⟨c, st, hstep, _⟩ := step_close_cases hr hc
      rw [hstep] at h
      exact (afterInstr_wSel h hc ht :)
    · by_cases hi : s.seq = .idle
      · rcases step_idle_cases hr hi h with ⟨_, rfl⟩ | ⟨w, rest, _, rfl, _⟩
        · rw [State.tick_seq, hi] at ht; cases ht
        · exact absurd ht (State.leaveIdle_seq_ne_wSel _)
      · obtain ⟨hp, hw, hd⟩ : s.seq ≠ .pDes ∧ s.seq ≠ .wDes ∧ s.seq ≠ .cDes := by tauto
        rw [step_row hr hi hp hw hd] at h
        exact absurd ht (stepRow_seq_ne_wSel h)

/-- Settles O27: three steps from W_SEL send the write-enable frame and run the row of W_DES, and no other row than that of P_DES
leads to W_SEL. -/
theorem writeEnableFrameThenCommand : Obligations.WriteEnableFrameThenCommand := by
  refine ⟨fun s hr hs hl => ⟨_, runSteps_three_of_wSel hr hs hl, ?_⟩, fun s t h ht => step_wSel_only_from_idle_poll h ht⟩
  refine ⟨?events, ?_, ?_, ?_, ?_, ?_, ?chunk, rfl, fun hf hw => ?chip⟩
  case events => simp [afterWDes, out]
  case chunk => exact State.loadChunk_chunk_toNat _
  case chip =>
    rw [afterWDes, State.goTo_chip, State.loadChunk_chip, State.closeFrame_chip, State.enableSent_tick_chip_of_idle hw]
    exact State.react_onWren_of_idle hf hw
  all_goals simp [afterWDes]

end Sys2Proof.Machine
end

section

namespace Sys2Proof.Machine

/-! ## The next chunk lies in one page (R161) -/

/-- A page offset is less than the size of a page, so there is at least one byte left of the page (R6). -/
theorem pageOffset_lt_pageSize (a : Addr) : pageOffset a < pageSize := Nat.mod_lt _ (by decide)

/-- `cur_addr[7:0] + chunk <= 256` (R161). -/
theorem pageOffset_add_chunkSize_le (a : Addr) (n : Len) : pageOffset a + chunkSize a n ≤ pageSize := by
  have hoff : pageOffset a < pageSize := pageOffset_lt_pageSize a
  have hleft : chunkSize a n ≤ pageSize - pageOffset a := Nat.min_le_left _ _
  omega

/-- A chunk that leaves data over takes all that is left of the page. -/
theorem chunkSize_of_lt_remaining {a : Addr} {n : Len} (h : chunkSize a n < n.toNat) :
    chunkSize a n = pageSize - pageOffset a := by
  unfold chunkSize at h ⊢
  omega

/-- A chunk that leaves data over ends on the last byte of its page: the next one starts a page. -/
theorem chunkSize_ends_page {a : Addr} {n : Len} (h : chunkSize a n < n.toNat) :
    (a.toNat + chunkSize a n) % pageSize = 0 := by
  have hfull : pageOffset a + chunkSize a n = pageSize := by
    rw [chunkSize_of_lt_remaining h, Nat.add_sub_cancel' (pageOffset_lt_pageSize a).le]
  calc (a.toNat + chunkSize a n) % pageSize
      _ = (pageOffset a + chunkSize a n) % pageSize := (Nat.mod_add_mod ..).symm
      _ = 0 := by rw [hfull, Nat.mod_self]

/-- Settles O34: the size is the definition's own minimum; the bounds are those of the counters, and what the chunk leaves of the page
gives the rest. -/
theorem chunkStaysInItsPage : Obligations.ChunkStaysInItsPage := fun a n hn =>
  ⟨rfl, chunkSize_pos hn, chunkSize_le_page a n, pageOffset_add_chunkSize_le a n, chunkSize_ends_page⟩

end Sys2Proof.Machine
end

section

namespace Sys2Proof.Machine

open Sys2Proof.Claims

/-! ## The chip's reaction to WREN (R215) -/

/-- A frame closed over a transport that is not unfaithful puts the reaction the spec gives in the chip's place (R110, R212). -/
theorem State.closeFrame_some {s : State} {c : Chip} (ht : s.transport ≠ .unfaithful) :
    s.closeFrame (some c) = closed s c := by
  rw [State.closeFrame, State.react_some ht]
  rfl

/-- The reaction of an idle chip does not depend on the latch it had (R215). -/
theorem Chip.onWren_of_idle {c : Chip} (hw : c.wip = false) :
    c.onWren = some { mem := c.mem, wel := true, wip := false } := by
  simp [Chip.onWren, hw]

/-- Settles O17: the spec gives the reaction of an idle chip, and closing the frame puts it in the chip's place. -/
theorem wrenSetsTheLatch : Obligations.WrenSetsTheLatch := fun s ht hw =>
  calc exec .wren s
    _ = .next (s.closeFrame s.chip.onWren) := rfl
    _ = .next (closed s { mem := s.chip.mem, wel := true, wip := false }) := by
      rw [Chip.onWren_of_idle hw, State.closeFrame_some ht]

end Sys2Proof.Machine
end

section

namespace Sys2Proof.Machine

/-! ## The decoders, form by form (R81 to R89) -/

@[simp] theorem header_addrOfBytes (opc b2 b1 b0 : Byte) : header opc (addrOfBytes b2 b1 b0) = [opc, b2, b1, b0] := by
  simp [header]

@[simp] theorem header_length (opc : Byte) (a : Addr) : (header opc a).length = 4 := rfl

@[simp] theorem decode_frame_pp (a : Addr) (d : List Byte) : decode (.frame (header opcPP a ++ d)) = .ok (.pp a d) := by
  simp [decode, decodeFrame, header]

@[simp] theorem decode_frame_readData (a : Addr) (d : List Byte) :
    decode (.frame (header opcREAD a ++ d)) = .ok (.readData a d.length) := by
  simp [decode, decodeFrame, header, opcPP, opcREAD]

@[simp] theorem decode_frame_rdsr (b : Byte) : decode (.frame [opcRDSR, b]) = .ok .rdsr := rfl

@[simp] theorem decode_frame_wren : decode (.frame [opcWREN]) = .ok .wren := rfl

@[simp] theorem decode_frame_be : decode (.frame [opcBE]) = .ok .be := rfl

@[simp] theorem decode_frame_se (a : Addr) : decode (.frame (header opcSE a)) = .ok (.se a) := by
  simp [decode, decodeFrame, header, opcPP, opcREAD, opcRDSR, opcWREN, opcBE, opcSE]

/-- Which bytes are a frame, and of what (R81, R82, R84). -/
theorem decode_frame_cases {bytes : List Byte} {i : Instr} (h : decode (.frame bytes) = .ok i) :
    (∃ a d, i = .pp a d ∧ bytes = header opcPP a ++ d) ∨ (∃ a d, i = .readData a d.length ∧ bytes = header opcREAD a ++ d) ∨
      (∃ b, i = .rdsr ∧ bytes = [opcRDSR, b]) ∨ (i = .wren ∧ bytes = [opcWREN]) ∨ (i = .be ∧ bytes = [opcBE]) ∨
      (∃ a, i = .se a ∧ bytes = header opcSE a) := by
  cases bytes with
  | nil => cases h
  | cons opc rest =>
    simp only [decode, decodeFrame] at h
    repeat' split at h
    all_goals cases h
    · exact .inl ⟨_, _, rfl, by simp [*]⟩
    · exact .inr (.inl ⟨_, _, rfl, by simp [*]⟩)
    · rename_i b
      exact .inr (.inr (.inl ⟨b, rfl, by simp [*]⟩))
    · exact .inr (.inr (.inr (.inl ⟨rfl, by simp [*]⟩)))
    · exact .inr (.inr (.inr (.inr (.inl ⟨rfl, by simp [*]⟩))))
    · exact .inr (.inr (.inr (.inr (.inr ⟨_, rfl, by simp [*]⟩))))

/-- A request word decodes by its code, and its other two fields are the operands (R86, R87). -/
theorem decode_request_eq (w : ReqWord) : decode (.request w) =
    if reqCode w = codeRead then .ok (.readReq (reqAddr w) (reqLen w))
    else if reqCode w = codeWrite then .ok (.writeReq (reqAddr w) (reqLen w))
    else if reqCode w = codeEraseSector then .ok (.eraseSectorReq (reqAddr w) (reqLen w))
    else if reqCode w = codeEraseAll then .ok (.eraseAllReq (reqAddr w) (reqLen w))
    else if reqCode w = codeWait then .ok (.waitReq (reqAddr w) (reqLen w))
    else if reqCode w = codeEnableWrite then .ok (.enableWriteReq (reqAddr w) (reqLen w))
    else .error .reservedCode := rfl

/-- The eight request codes (R86, R89). -/
theorem code_cases (c : Code) : c = codeRead ∨ c = codeWrite ∨ c = codeEraseSector ∨ c = codeEraseAll ∨ c = codeWait ∨
    c = codeEnableWrite ∨ c = 6#3 ∨ c = 7#3 := by
  revert c; decide

/-- A request word decodes to an instruction or has a reserved code (R89). -/
theorem decode_request_ok_or_reserved (w : ReqWord) :
    (∃ i, decode (.request w) = .ok i ∧ (reqCode w).toNat ≤ 5) ∨
      (decode (.request w) = .error .reservedCode ∧ (reqCode w = 6#3 ∨ reqCode w = 7#3)) := by
  rw [decode_request_eq]
  rcases code_cases (reqCode w) with h | h | h | h | h | h | h | h <;> rw [h]
  · exact .inl ⟨_, rfl, by decide⟩
  · exact .inl ⟨_, rfl, by decide⟩
  · exact .inl ⟨_, rfl, by decide⟩
  · exact .inl ⟨_, rfl, by decide⟩
  · exact .inl ⟨_, rfl, by decide⟩
  · exact .inl ⟨_, rfl, by decide⟩
  · exact .inr ⟨rfl, .inl rfl⟩
  · exact .inr ⟨rfl, .inr rfl⟩

/-! ## Encoding and decoding are inverse (R82 to R87) -/

/-- Settles O1: one decoder lemma per form of frame, and for a request the fields of its word. -/
theorem decodeOfEncodeIsIdentity : Obligations.DecodeOfEncodeIsIdentity := by
  intro dummy i
  cases i with
  | pp a d => exact decode_frame_pp a d
  | readData a n => simp [encode]
  | rdsr => exact decode_frame_rdsr dummy
  | wren => exact decode_frame_wren
  | be => exact decode_frame_be
  | se a => exact decode_frame_se a
  | readReq a n | writeReq a n | eraseSectorReq a n | eraseAllReq a n | waitReq a n | enableWriteReq a n =>
    simp [encode, decode_request_eq, codeRead, codeWrite, codeEraseSector, codeEraseAll, codeWait, codeEnableWrite]

/-- Settles O2: the instruction keeps all three fields of the word, and the word is its three fields. -/
theorem encodeOfDecodedRequestIsTheWord : Obligations.EncodeOfDecodedRequestIsTheWord := by
  intro dummy w i h
  rcases decode_request_cases h with ⟨hc, rfl⟩ | ⟨hc, rfl⟩ | ⟨hc, rfl⟩ | ⟨hc, rfl⟩ | ⟨hc, rfl⟩ | ⟨hc, rfl⟩
  all_goals rw [encode, ← hc, packRequest_fields]

/-- Settles O3: the bytes of a frame by its form; only in READ and RDSR does the encoder write a byte the decoder did not look at. -/
theorem encodeOfDecodedFrameIsTheFrame : Obligations.EncodeOfDecodedFrameIsTheFrame := by
  intro dummy bytes i h
  rcases decode_frame_cases h with
    ⟨a, d, rfl, rfl⟩ | ⟨a, d, rfl, rfl⟩ | ⟨b, rfl, rfl⟩ | ⟨rfl, rfl⟩ | ⟨rfl, rfl⟩ | ⟨a, rfl, rfl⟩
  case inr.inl => exact ⟨_, rfl, by simp, fun _ => rfl, rfl, fun _ h => absurd rfl (h a d.length)⟩
  case inr.inr.inl => exact ⟨_, rfl, rfl, fun h => absurd rfl h, rfl, fun h => absurd rfl h⟩
  all_goals exact ⟨_, rfl, rfl, fun _ => rfl, rfl, fun _ _ => rfl⟩

/-- Settles O4: a word decodes exactly when its code is one of the six. -/
theorem reservedCodesAreRejected : Obligations.ReservedCodesAreRejected := by
  intro w
  rcases decode_request_ok_or_reserved w with ⟨i, hi, hc⟩ | ⟨he, hc⟩
  · have hn : ¬ (reqCode w = 6#3 ∨ reqCode w = 7#3) := by rintro (h | h) <;> simp [h] at hc
    simp [hi, hn]
  · simp [he, hc]

/-- Settles O5: an opcode that is none of the six fails every test of the decoder, and a length that the format does not have fails
its pattern. -/
theorem foreignFramesAreRejected : Obligations.ForeignFramesAreRejected := by
  refine ⟨rfl, fun opc rest h => ?_, fun rest h => ?_, fun rest h => ?_, fun rest h => ?_, fun rest h => ?_⟩
  · simp only [List.mem_cons, List.not_mem_nil, or_false, not_or] at h
    simp [decode, decodeFrame, h]
  · match rest with
    | [] | _ :: _ :: _ => rfl
    | [_] => exact absurd rfl h
  · match rest with
    | [] => exact absurd rfl h
    | _ :: _ => exact ⟨rfl, rfl⟩
  · match rest with
    | [] | [_] | [_, _] | _ :: _ :: _ :: _ :: _ => rfl
    | [_, _, _] => exact absurd rfl h
  · match rest with
    | [] | [_] | [_, _] => exact ⟨rfl, rfl⟩
    | _ :: _ :: _ :: _ => simp only [List.length_cons] at h; omega

/-- Settles O6: the decoder evaluated on the twelve samples. -/
theorem sampleWordsDecode : Obligations.SampleWordsDecode := by
  refine ⟨?_, ?_, ?_, ?_, ?_, ?_, ?_, ?_, ?_, ?_, ?_, ?_⟩ <;> decide

end Sys2Proof.Machine
end

section

namespace Sys2Proof.Machine

open Sys2Proof.Claims

/-! ## Closing a frame (R110, R212) -/

theorem State.closeFrame_eq (s : State) (r : Option Chip) : s.closeFrame r = closed s (s.react r) := rfl

/-- RDSR writes the status byte to `sr_shadow` and leaves the chip to its reaction (R111). -/
theorem exec_rdsr (s : State) :
    exec .rdsr s = .next (closed { s with srShadow := s.latchStatus.srShadow } (s.react (some s.chip))) := by
  have h : exec .rdsr s = .next (s.latchStatus.closeFrame (some s.chip)) := rfl
  rw [h, State.latchStatus_eq]
  rfl

/-- What the spec says the chip makes of a frame, if anything (R213 to R219). -/
def Chip.reaction (p : Params) (c : Chip) : Instr → Option Chip
  | .pp a d => c.onPP p a d
  | .readData a n => c.onRead p a n
  | .rdsr => c.onRdsr
  | .wren => c.onWren
  | .be => c.onBE
  | .se a => c.onSE p a
  | .readReq _ _ | .writeReq _ _ | .eraseSectorReq _ _ | .eraseAllReq _ _ | .waitReq _ _ | .enableWriteReq _ _ => none

/-- Executing a frame closes it and leaves the chip to its reaction; RDSR alone writes `sr_shadow` (R110 to R116). -/
theorem exec_frame {i : Instr} (hi : i.isFrame = true) (s : State) :
    exec i s = .next (closed { s with srShadow := if i = .rdsr then s.latchStatus.srShadow else s.srShadow }
      (s.react (s.chip.reaction s.params i))) := by
  cases i with
  | rdsr => exact exec_rdsr s
  | pp a d | readData a n | wren | be | se a => rfl
  | readReq a n | writeReq a n | eraseSectorReq a n | eraseAllReq a n | waitReq a n | enableWriteReq a n => cases hi

/-- Executing a frame keeps the array in canonical form. -/
theorem wf_exec_frame {i : Instr} {s t : State} (hi : i.isFrame = true) (hm : Mem.wf s.params.capacity s.chip.mem = true)
    (h : exec i s = .next t) : Mem.wf s.params.capacity t.chip.mem = true := by
  obtain ⟨r, hr, ⟨_, he⟩ | ⟨_, _, he⟩⟩ := exec_frame_cases hi s hm
  · cases h.symm.trans he
    exact State.wf_react hr
  · cases h.symm.trans he
    rw [State.closeFrame_chip, ← State.latchStatus_params]
    exact State.wf_react (by simpa using hr)

/-- Settles O16: the status byte of a complete frame is the one received in position 1, and the chip reacts by nothing. -/
theorem rdsrKeepsTheStatusByte : Obligations.RdsrKeepsTheStatusByte := by
  intro s x d st ht hf
  rw [exec_rdsr, State.latchStatus_of_frame hf, State.react_some ht]

/-- Settles O18: a READ inside the array is one the spec gives a reaction for, and that reaction is nothing. -/
theorem readFrameHasNoSideEffect : Obligations.ReadFrameHasNoSideEffect := by
  intro s a n ht hw ha hn
  have hin : rangeInContract s.params a n = true := by simp [rangeInContract, ha, hn]
  calc exec (.readData a n) s
    _ = .next (s.closeFrame (s.chip.onRead s.params a n)) := rfl
    _ = .next (closed s s.chip) := by rw [Chip.onRead_inside hw hin, State.closeFrame_some ht]

/-- Settles O22: whatever the chip's reaction is, the frame is closed with it. -/
theorem closingAFrameCompletes : Obligations.ClosingAFrameCompletes := fun s =>
  ⟨⟨_, _, exec_rdsr s⟩, ⟨_, rfl⟩, ⟨_, rfl⟩, fun _ => ⟨_, rfl⟩, fun _ _ => ⟨_, rfl⟩, fun _ _ => ⟨_, rfl⟩⟩

/-! ## Programming and erasing (R217 to R219) -/

/-- A chip with its latch set and not busy takes a program or erase. -/
theorem Chip.ready_of {c : Chip} (hl : c.wel = true) (hw : c.wip = false) : c.ready = true := by simp [Chip.ready, hl, hw]

/-- PP of 1 to 256 bytes inside the array programs them (R217). -/
theorem Chip.onPP_of_ready {p : Params} {a : Addr} {d : List Byte} {c : Chip} (hc : c.ready = true) (hd : d ≠ [])
    (hn : d.length ≤ pageSize) (hin : ∀ k, k < d.length → programTarget a k < p.capacity) :
    c.onPP p a d = some (c.accept (c.mem.program a 0 d)) := by
  have hin' : programInside p a d.length = true := by simpa [programInside] using hin
  simp [Chip.onPP, hc, hd, hn, hin']

/-- SE inside the array erases the sector of its address (R218). -/
theorem Chip.onSE_of_ready {p : Params} {a : Addr} {c : Chip} (hc : c.ready = true) (ha : a.toNat < p.capacity)
    (hs : 0 < p.sectorSize) :
    c.onSE p a = some (c.accept (c.mem.erase (sectorBase p a) (sectorBase p a + p.sectorSize))) := by
  simp [Chip.onSE, hc, addrInContract, ha, hs]

/-- BE erases the array (R219). -/
theorem Chip.onBE_of_ready {c : Chip} (hc : c.ready = true) : c.onBE = some (c.accept []) := by simp [Chip.onBE, hc]

/-- A data byte that does not run past the end of the page goes to its own address (R55). -/
theorem programTarget_of_fits {a : Addr} {k : Nat} (h : pageOffset a + k < pageSize) : programTarget a k = a.toNat + k := by
  rw [programTarget, Nat.mod_eq_of_lt h]
  simp only [pageOffset, pageSize]
  omega

/-- A page program that stays in its page programs the addresses from its own on (R217, R225). -/
theorem Mem.read_program_of_fits {cap : Nat} {m : Mem} {a : Addr} {d : List Byte} (hm : Mem.wf cap m = true)
    (hfit : pageOffset a + d.length ≤ pageSize) (hin : ∀ k, k < d.length → programTarget a k < cap) (x : Nat) :
    (m.program a 0 d).read x = programmed m a.toNat d x := by
  obtain ⟨hat, hout⟩ := Mem.read_program a d m 0 hm (by simpa using hin) (by omega)
  simp only [Nat.zero_add] at hat hout
  have htgt : ∀ k, k < d.length → programTarget a k = a.toNat + k := fun k hk => programTarget_of_fits (by omega)
  unfold programmed
  by_cases hx : a.toNat ≤ x
  · rw [if_pos hx]
    cases hd : d[x - a.toNat]? with
    | some b =>
      have hlt : x - a.toNat < d.length := (List.getElem?_eq_some_iff.mp hd).1
      have h := hat _ _ hd
      rwa [htgt _ hlt, Nat.add_sub_cancel' hx] at h
    | none =>
      have hge : d.length ≤ x - a.toNat := List.getElem?_eq_none_iff.mp hd
      exact hout x fun k hk => by rw [htgt k hk]; omega
  · rw [if_neg hx]
    exact hout x fun k hk => by rw [htgt k hk]; omega

/-- Settles O19: the reaction of a ready chip, and what programming leaves at each address. -/
theorem pageProgramClearsBitsInItsPage : Obligations.PageProgramClearsBitsInItsPage := by
  intro s a d ht hl hw hm h1 h256 hin
  have hd : d ≠ [] := by rintro rfl; simp at h1
  have hexec : exec (.pp a d) s = .next (closed s (s.chip.accept (s.chip.mem.program a 0 d))) :=
    calc exec (.pp a d) s
      _ = .next (s.closeFrame (s.chip.onPP s.params a d)) := rfl
      _ = _ := by rw [Chip.onPP_of_ready (Chip.ready_of hl hw) hd h256 hin, State.closeFrame_some ht]
  obtain ⟨hat, hout⟩ := Mem.read_program a d s.chip.mem 0 hm
    (fun k hk => by rw [Nat.zero_add]; exact hin k hk) (by rw [Nat.zero_add]; exact h256)
  simp only [Nat.zero_add] at hat hout
  exact ⟨_, hexec, rfl, rfl, hat, hout, fun hfit x => Mem.read_program_of_fits hm hfit hin x⟩

/-- A sector is the bytes whose address has the same quotient by its size (R218). -/
theorem mem_sector_iff {p : Params} (a : Addr) (x : Nat) (hs : 0 < p.sectorSize) :
    (sectorBase p a ≤ x ∧ x < sectorBase p a + p.sectorSize) ↔ x / p.sectorSize = a.toNat / p.sectorSize := by
  rw [Nat.div_eq_iff hs, sectorBase]
  omega

/-- Settles O20: the reaction of a ready chip, and what erasing leaves at each address. -/
theorem sectorEraseErasesItsSector : Obligations.SectorEraseErasesItsSector := by
  intro s a ht hl hw hm ha hs
  refine ⟨s.chip.accept (s.chip.mem.erase (sectorBase s.params a) (sectorBase s.params a + s.params.sectorSize)), ?_, rfl, rfl,
    fun x => ?_⟩
  · calc exec (.se a) s
      _ = .next (s.closeFrame (s.chip.onSE s.params a)) := rfl
      _ = _ := by rw [Chip.onSE_of_ready (Chip.ready_of hl hw) ha hs, State.closeFrame_some ht]
  · simp only [Chip.accept, Mem.read_erase _ _ _ hm, mem_sector_iff a x hs]
    rfl

/-- Settles O21: the reaction of a ready chip leaves no cell listed. -/
theorem bulkEraseErasesTheArray : Obligations.BulkEraseErasesTheArray := by
  intro s ht hl hw
  refine ⟨s.chip.accept [], ?_, rfl, rfl, fun x => rfl⟩
  calc exec .be s
    _ = .next (s.closeFrame s.chip.onBE) := rfl
    _ = _ := by rw [Chip.onBE_of_ready (Chip.ready_of hl hw), State.closeFrame_some ht]

end Sys2Proof.Machine
end

section

namespace Sys2Proof.Machine

open Sys2Proof.Claims

/-! ## Acceptance (R56, R191, R192) -/

/-- Where acceptance leads (R191). -/
theorem State.leaveIdle_seq (s : State) : s.leaveIdle.seq =
    if s.op = codeWrite ∧ s.remaining = 0#24 ∧ s.params.zeroLenWriteEmitsFrame = false then .fin
    else if 6 ≤ s.op.toNat then .fin else .pSel := by
  unfold State.leaveIdle
  split
  · rfl
  · split <;> rfl

/-- Acceptance moves the sequencer, and starts the poll count where it enters a poll (R191, R246). -/
theorem State.leaveIdle_eq (s : State) :
    s.leaveIdle = { s with seq := s.leaveIdle.seq, pollCnt := if s.leaveIdle.seq = .pSel then 0 else s.pollCnt } := by
  rcases leaveIdle_cases s with ⟨_, _, _, h⟩ | ⟨_, h⟩ | ⟨_, _, h⟩ <;> rw [h] <;> rfl

theorem State.leaveIdle_of_polls {s : State} (hop : s.op.toNat ≤ 5)
    (hw : s.op = codeWrite → s.remaining ≠ 0#24 ∨ s.params.zeroLenWriteEmitsFrame = true) : s.leaveIdle = s.enterPoll := by
  have h1 : ¬ (s.op = codeWrite ∧ s.remaining = 0#24 ∧ s.params.zeroLenWriteEmitsFrame = false) := by
    rintro ⟨h, h0, hz⟩
    rcases hw h with h | h
    · exact h h0
    · simp [hz] at h
  rw [State.leaveIdle, if_neg h1, if_neg (by omega)]

/-- A request that IDLE executes leaves it, so the sequencer adds nothing to it. -/
theorem State.afterInstr_leaveIdle (s : State) : afterInstr s.leaveIdle = .next s.leaveIdle := by
  rcases leaveIdle_cases s with ⟨_, _, _, h⟩ | ⟨_, h⟩ | ⟨_, _, h⟩ <;> rw [h] <;> rfl

/-- In IDLE a request that is not refused is loaded (R192). -/
theorem request_of_taken {c : Code} {a : Addr} {n : Len} {b : Bool} {s : State} (hs : s.seq = .idle)
    (h : b = true ∨ s.params.outOfContract = .literal) : request c a n b s = .next (s.load c a n).leaveIdle := by
  rw [request, if_pos hs, if_neg]
  rintro ⟨hb, hp⟩
  rcases h with h | h
  · simp [hb] at h
  · simp [hp] at h

theorem request_refused_iff {c : Code} {a : Addr} {n : Len} {b : Bool} {s : State} (hs : s.seq = .idle)
    (hp : s.params.outOfContract = .refuse) : request c a n b s = .refused .outOfContract ↔ b = false := by
  cases b <;> simp [request, hs, hp]

theorem request_true_ne_refused (c : Code) (a : Addr) (n : Len) (s : State) (r : Refusal) :
    request c a n true s ≠ .refused r := by
  unfold request
  split <;> simp

/-- Of a request word that decodes, IDLE loads the three fields, unless it is out of contract under the reading `refuse`
(R56, R192). -/
theorem exec_of_word_taken {w : ReqWord} {i : Instr} {s : State} (hd : decode (.request w) = .ok i) (hs : s.seq = .idle)
    (h : s.params.outOfContract = .literal ∨ i.wellFormed s.params = true) :
    exec i s = .next (s.load (reqCode w) (reqAddr w) (reqLen w)).leaveIdle := by
  rcases decode_request_cases hd with ⟨hc, rfl⟩ | ⟨hc, rfl⟩ | ⟨hc, rfl⟩ | ⟨hc, rfl⟩ | ⟨hc, rfl⟩ | ⟨hc, rfl⟩
  all_goals
    rw [hc]
    exact request_of_taken hs h.symm

/-- A step in IDLE takes the word at the head of the port and loads its three fields, unless it refuses it (R87, R192, R201). -/
theorem step_accept {s : State} {w : ReqWord} {rest : List ReqWord} (hr : s.rst = false) (hs : s.seq = .idle)
    (hq : s.requests = w :: rest) (h : s.params.outOfContract = .literal ∨ wordInContract s.params w = true) :
    step s = .next (State.load { s.tick with requests := rest } (reqCode w) (reqAddr w) (reqLen w)).leaveIdle := by
  rw [step_of_no_rst hr]
  cases hd : decode (.request w) with
  | ok i =>
    have hf : s.tick.fetch = .instr i { s.tick with requests := rest } := by
      simp only [State.fetch, State.tick_seq, hs, State.tick_requests, hq, hd]
    have hin : s.params.outOfContract = .literal ∨ i.wellFormed s.params = true := by simpa [wordInContract, hd] using h
    simp only [stepBlock, hf]
    rw [exec_of_word_taken hd (s := { s.tick with requests := rest }) hs hin, andThen_next, State.afterInstr_leaveIdle]
  | error e =>
    have hf : s.tick.fetch = .reserved w { s.tick with requests := rest } := by
      simp only [State.fetch, State.tick_seq, hs, State.tick_requests, hq, hd]
    have hl : s.params.outOfContract = .literal := by simpa [wordInContract, hd] using h
    simp only [stepBlock, hf, acceptReserved, State.tick_params, hl]

/-- In contract, a word of one of the six requests is not refused (R56). -/
theorem wordInContract_pack {p : Params} {c : Code} {a : Addr} {n : Len} (hc : c.toNat ≤ 5)
    (hr : c = codeRead ∨ c = codeWrite → rangeInContract p a n.toNat = true)
    (he : c = codeEraseSector → addrInContract p a = true) : wordInContract p (packRequest c a n) = true := by
  rcases decode_request_ok_or_reserved (packRequest c a n) with ⟨i, hi, _⟩ | ⟨_, h⟩
  · simp only [wordInContract, hi]
    rcases decode_request_cases hi with ⟨h, rfl⟩ | ⟨h, rfl⟩ | ⟨h, rfl⟩ | ⟨_, rfl⟩ | ⟨_, rfl⟩ | ⟨_, rfl⟩
    · simpa [Instr.wellFormed] using hr (.inl (by simpa using h))
    · simpa [Instr.wellFormed] using hr (.inr (by simpa using h))
    · simpa [Instr.wellFormed] using he (by simpa using h)
    all_goals rfl
  · rw [reqCode_packRequest] at h
    rcases h with rfl | rfl <;> simp at hc

/-- Settles O10: each request is loaded as it is taken, and only a WRITE of no bytes does not poll. -/
theorem acceptanceLoadsTheRequest : Obligations.AcceptanceLoadsTheRequest := by
  intro s a n hs
  have taken : ∀ c b, c.toNat ≤ 5 → c ≠ codeWrite ∨ polls s n → b = true ∨ s.params.outOfContract = .literal →
      request c a n b s = .next { loaded s c a n .pSel with pollCnt := 0 } := by
    intro c b hc hw hb
    rw [request_of_taken hs hb, State.leaveIdle_of_polls (s := s.load c a n) hc fun h => hw.resolve_left fun hn => hn h]
    rfl
  have range : rangeTaken s a n → rangeInContract s.params a n.toNat = true ∨ s.params.outOfContract = .literal := by
    simp [rangeTaken, rangeInContract]
  refine ⟨fun h => taken _ _ (by decide) (.inl (by decide)) (range h), fun h hp => taken _ _ (by decide) (.inr hp) (range h),
    fun h hp => ?_, fun h => taken _ _ (by decide) (.inl (by decide)) (by simpa [addrInContract] using h),
    taken _ _ (by decide) (.inl (by decide)) (.inl rfl), taken _ _ (by decide) (.inl (by decide)) (.inl rfl),
    taken _ _ (by decide) (.inl (by decide)) (.inl rfl)⟩
  have h0 : n = 0#24 ∧ s.params.zeroLenWriteEmitsFrame = false := by simpa [polls] using hp
  calc exec (.writeReq a n) s
    _ = .next (s.load codeWrite a n).leaveIdle := request_of_taken hs (range h)
    _ = .next (loaded s codeWrite a n .fin) := by rw [State.leaveIdle, if_pos ⟨rfl, h0⟩]; rfl

/-- Settles O11: the word is loaded by `step_accept`, and acceptance moves the sequencer alone. -/
theorem acceptanceLoadsWhateverTheRequest : Obligations.AcceptanceLoadsWhateverTheRequest := by
  intro s w rest hr hs hq h
  refine ⟨_, step_accept hr hs hq h, ?_⟩
  have hcode : 6 ≤ (reqCode w).toNat ↔ (reqCode w).toNat = 6 ∨ (reqCode w).toNat = 7 := by
    have := (reqCode w).isLt
    omega
  rw [State.leaveIdle_eq]
  refine ⟨rfl, rfl, rfl, rfl, rfl, rfl, rfl, rfl, rfl, rfl, ?_⟩
  simp only [State.leaveIdle_seq, State.load_op, State.load_remaining, State.load_params, hcode]
  rfl

/-- Settles O12: a request is refused exactly where its contract fails, and three requests have none. -/
theorem outOfContractRequestsAreRefused : Obligations.OutOfContractRequestsAreRefused := by
  intro s a n hs hp
  refine ⟨(request_refused_iff hs hp).trans ?_, (request_refused_iff hs hp).trans ?_, (request_refused_iff hs hp).trans ?_,
    request_true_ne_refused _ a n s, request_true_ne_refused _ a n s, request_true_ne_refused _ a n s⟩
  · simp [rangeInContract]
  · simp [rangeInContract]
  · simp [addrInContract]

/-- Settles O13: a reserved word is `acceptReserved`'s under either reading. -/
theorem reservedCodesAreRefusedOrCompleteAtOnce : Obligations.ReservedCodesAreRefusedOrCompleteAtOnce := by
  intro s w rest hr hs hq hc
  refine ⟨fun hp => ?_, fun hp => ?_⟩
  · have hd : decode (.request w) = .error .reservedCode := (reservedCodesAreRejected w).2 hc
    have hf : s.tick.fetch = .reserved w { s.tick with requests := rest } := by
      simp only [State.fetch, State.tick_seq, hs, State.tick_requests, hq, hd]
    rw [step_of_no_rst hr]
    simp only [stepBlock, hf, acceptReserved, State.tick_params, hp]
  · rw [step_accept hr hs hq (.inl hp), State.leaveIdle_eq]
    have hfin : (State.load { s.tick with requests := rest } (reqCode w) (reqAddr w) (reqLen w)).leaveIdle.seq = .fin := by
      rw [State.leaveIdle_seq, State.load_op, if_neg, if_pos]
      all_goals rcases hc with h | h <;> simp [h, codeWrite]
    rw [hfin]
    rfl

/-! ## A step runs the decoded instruction (R191, R192, R212) -/

/-- Settles O7: executing a request in IDLE leaves IDLE or is refused, so the sequencer adds nothing. -/
theorem stepExecutesTheRequestAtThePort : Obligations.StepExecutesTheRequestAtThePort := by
  intro s w rest i hr hs hq hd
  have hf : s.tick.fetch = .instr i { s.tick with requests := rest } := by
    simp only [State.fetch, State.tick_seq, hs, State.tick_requests, hq, hd]
  obtain ⟨c, a, n, b, he, _⟩ := exec_request_cases (decode_request_isFrame hd) { s.tick with requests := rest }
  rw [step_of_no_rst hr]
  simp only [stepBlock, hf]
  rcases request_cases c a n b { s.tick with requests := rest } with ⟨h, _⟩ | ⟨_, _, _, h⟩ | ⟨_, _, h⟩
  · exact absurd hs h
  · rw [he, h, andThen_refused]
  · rw [he, h, andThen_next, State.afterInstr_leaveIdle]

/-- A step that closes a frame executes it; the sequencer adds where it goes next. -/
theorem step_close {s : State} {i : Instr} (hr : s.rst = false) (hs : s.seq = .pDes ∨ s.seq = .wDes ∨ s.seq = .cDes)
    (hd : decode (.frame s.sent) = .ok i) : step s = andThen (exec i s.tick) afterInstr := by
  have hd' : decode (.frame s.tick.sent) = .ok i := hd
  have hf : s.tick.fetch = .instr i s.tick := by
    rcases hs with h | h | h <;> simp only [State.fetch, State.tick_seq, h, hd']
  rw [step_of_no_rst hr]
  simp only [stepBlock, hf]

/-- Settles O8: `step_close` for the three closing states. -/
theorem stepExecutesTheFrameBeingClosed : Obligations.StepExecutesTheFrameBeingClosed := fun s i hr hs hd =>
  step_close hr (by simpa using hs) hd

end Sys2Proof.Machine
end

section

namespace Sys2Proof.Machine

open Sys2Proof.Claims

/-! ## The rows that send a byte of the header or an opcode (R191, R194) -/

/-- Where a state leads that sends one byte and discards the answer. -/
def State.afterSend (s : State) : Option Seq :=
  match s.seq with
  | .pCmd => some .pSta
  | .wCmd => some .wDes
  | .cOp => some (if s.op = codeEraseAll then .cDes else .cA2)
  | .cA2 => some .cA1
  | .cA1 => some .cA0
  | .cA0 => afterHeader s
  | _ => none

/-- Such a state transfers the byte on `bt_tx` and moves on. -/
theorem stepRow_send {s : State} {b : Byte} {q : Seq} (hb : s.btTx = some b) (hq : s.afterSend = some q) :
    stepRow s = .next (transferOut b (State.goTo q) s) := by
  cases hs : s.seq <;> simp only [State.btTx, State.afterSend, hs, Option.some.injEq, reduceCtorEq] at hb hq <;>
    simp only [stepRow, hs]
  case cOp => simp [rowCOp, hb, hq]
  case cA0 => simp [rowCA0, hb, hq]
  all_goals subst hb hq; rfl

theorem State.afterSend_seq {s : State} {q : Seq} (h : s.afterSend = some q) :
    s.seq ∈ [Seq.pCmd, .wCmd, .cOp, .cA2, .cA1, .cA0] := by
  cases hs : s.seq <;> simp_all [State.afterSend]

/-- A step out of such a state, whether the transport completes the transfer or not (R196). -/
theorem step_transferOut {s : State} {b : Byte} {q : Seq} (hr : s.rst = false) (hb : s.btTx = some b)
    (hq : s.afterSend = some q) : step s = .next (transferOut b (State.goTo q) s.tick) := by
  have hs := State.afterSend_seq hq
  rw [step_row hr, stepRow_send (s := s.tick) hb hq]
  all_goals rintro h; simp [h] at hs

/-- A step that sends `b` from `s` and goes to `q`. -/
def State.sendTo (s : State) (b : Byte) (q : Seq) : State := (s.tick.exchange b none).goTo q

@[simp] theorem State.sendTo_seq (s : State) (b : Byte) (q : Seq) : (s.sendTo b q).seq = q := rfl
@[simp] theorem State.sendTo_rst (s : State) (b : Byte) (q : Seq) : (s.sendTo b q).rst = s.rst := rfl
@[simp] theorem State.sendTo_transport (s : State) (b : Byte) (q : Seq) : (s.sendTo b q).transport = s.transport := rfl
@[simp] theorem State.sendTo_op (s : State) (b : Byte) (q : Seq) : (s.sendTo b q).op = s.op := rfl
@[simp] theorem State.sendTo_curAddr (s : State) (b : Byte) (q : Seq) : (s.sendTo b q).curAddr = s.curAddr := rfl
@[simp] theorem State.sendTo_remaining (s : State) (b : Byte) (q : Seq) : (s.sendTo b q).remaining = s.remaining := rfl
@[simp] theorem State.sendTo_chunk (s : State) (b : Byte) (q : Seq) : (s.sendTo b q).chunk = s.chunk := rfl

@[simp] theorem State.afterHeader_sendTo (s : State) (b : Byte) (q : Seq) : afterHeader (s.sendTo b q) = afterHeader s := rfl

theorem step_send {s : State} {b : Byte} {q : Seq} (hr : s.rst = false) (hl : s.transport ≠ .stalled)
    (hb : s.btTx = some b) (hq : s.afterSend = some q) : step s = .next (s.sendTo b q) := by
  rw [State.sendTo, step_transferOut hr hb hq, transferOut, if_neg (by simpa using hl)]

/-- A selecting state opens a frame. -/
theorem step_select {s : State} {q : Seq} (hr : s.rst = false)
    (hs : (s.seq, q) ∈ [(Seq.pSel, Seq.pCmd), (.wSel, .wCmd), (.cSel, .cOp)]) :
    step s = .next (s.tick.select.goTo q) := by
  simp only [List.mem_cons, Prod.mk.injEq, List.not_mem_nil, or_false] at hs
  rcases hs with ⟨hs, rfl⟩ | ⟨hs, rfl⟩ | ⟨hs, rfl⟩
  · exact step_pSel hr hs
  · exact step_wSel hr hs
  · exact step_cSel hr hs

/-- `s` after the status exchange of a poll that brought `r` (R111, R246). -/
def State.statusRead (s : State) (r : Byte) : State :=
  { s.exchange s.params.dummyTx (some r) with
    srShadow := r
    pollCnt := if s.params.pollLimit.isSome then s.pollCnt + 1 else s.pollCnt
    seq := .pDes }

theorem step_status {s : State} (hr : s.rst = false) (hs : s.seq = .pSta) (hl : s.transport ≠ .stalled) :
    step s = .next (s.tick.statusRead s.tick.received) := by
  rw [step_pSta hr hs, rowPSta, transferIn, if_neg (by simpa using hl)]
  rfl

/-- `s` after a data exchange of a READ that brought `b` (R151, R152). -/
def State.dataRead (s : State) (b : Byte) : State :=
  ((s.exchange s.params.dummyTx (some b)).push b).countByte.goTo (if s.remaining - 1#24 = 0#24 then .cDes else .cRd)

theorem step_dataRead {s : State} (hr : s.rst = false) (hs : s.seq = .cRd) (hl : s.transport ≠ .stalled) :
    step s = .next (s.tick.dataRead s.tick.received) := by
  rw [step_cRd hr hs, rowCRd, transferIn, if_neg (by simpa using hl)]
  rfl

/-- In C_WR the block has the byte `d`, in the state `v`: a stalled step has taken it, or this one takes it (R29, log 19). -/
def State.Takes (s : State) (d : Byte) (v : State) : Prop :=
  (s.outstanding = some d ∧ v = s) ∨
    (s.outstanding = none ∧ ∃ rest, s.wdata = d :: rest ∧ v = State.observe { s with wdata := rest } (.taken d))

/-- `s` after the data byte `d` of a page program is sent and counted (R163). -/
def State.dataSent (s : State) (d : Byte) : State :=
  (s.exchange d none).countByte.countChunk.goTo (if s.chunk - 1#9 = 0#9 then .cDes else .cWr)

theorem step_dataSent {s v : State} {d : Byte} (hr : s.rst = false) (hs : s.seq = .cWr) (hl : s.transport ≠ .stalled)
    (hv : s.tick.Takes d v) : step s = .next (v.dataSent d) := by
  have hrow : rowCWr s.tick = sendData d v := by
    rcases hv with ⟨ho, rfl⟩ | ⟨ho, rest, hw, rfl⟩
    · simp only [rowCWr, ho]
    · simp only [rowCWr, ho, hw]
  have hlv : v.transport ≠ .stalled := by
    rcases hv with ⟨_, rfl⟩ | ⟨_, _, _, rfl⟩ <;> exact hl
  rw [step_cWr hr hs, hrow, sendData, transferOut, if_neg hlv]
  rfl

/-! ## What a step can do, said once (R191) -/

/-- The row of the table that leads from `s`, the state after the environment's part, to `t`. -/
inductive Row (s : State) : State → Prop
  /-- IDLE, nothing offered (R190) -/
  | silent (hs : s.seq = .idle) (hq : s.requests = []) : Row s s
  /-- IDLE, a request accepted (R192) -/
  | accept (w : ReqWord) (rest : List ReqWord) (hs : s.seq = .idle) (hq : s.requests = w :: rest)
      (hc : s.params.outOfContract = .refuse → (reqCode w).toNat ≤ 5 ∧
        ((reqCode w = codeRead ∨ reqCode w = codeWrite) → rangeInContract s.params (reqAddr w) (reqLen w).toNat = true) ∧
        (reqCode w = codeEraseSector → addrInContract s.params (reqAddr w) = true)) :
      Row s (State.load { s with requests := rest } (reqCode w) (reqAddr w) (reqLen w)).leaveIdle
  /-- P_SEL, W_SEL, C_SEL -/
  | select (q : Seq) (hs : (s.seq, q) ∈ [(Seq.pSel, Seq.pCmd), (.wSel, .wCmd), (.cSel, .cOp)]) : Row s (s.select.goTo q)
  /-- a transfer that is not completed, C_WR apart (R196) -/
  | held (b : Byte) (hl : s.transport = .stalled) (hs : s.seq ≠ .cWr) (hb : s.btTx = some b) : Row s (s.hold b)
  /-- a byte sent, the answer discarded -/
  | sent (b : Byte) (q : Seq) (hl : s.transport ≠ .stalled) (hb : s.btTx = some b) (hq : s.afterSend = some q) :
      Row s ((s.exchange b none).goTo q)
  /-- P_STA -/
  | status (hl : s.transport ≠ .stalled) (hs : s.seq = .pSta) : Row s (s.statusRead s.received)
  /-- C_RD -/
  | dataRead (hl : s.transport ≠ .stalled) (hs : s.seq = .cRd) : Row s (s.dataRead s.received)
  /-- C_WR, no byte from the client (R29) -/
  | waits (hs : s.seq = .cWr) (ho : s.outstanding = none) (hw : s.wdata = []) : Row s s
  /-- C_WR, the byte taken and not yet sent -/
  | dataHeld (d : Byte) (v : State) (hl : s.transport = .stalled) (hs : s.seq = .cWr) (hv : s.Takes d v) : Row s (v.hold d)
  /-- C_WR, the byte sent -/
  | dataSent (d : Byte) (v : State) (hl : s.transport ≠ .stalled) (hs : s.seq = .cWr) (hv : s.Takes d v) :
      Row s (v.dataSent d)
  /-- FIN -/
  | done (hs : s.seq = .fin) : Row s ((s.observe .done).goTo .idle)
  /-- P_DES, W_DES, C_DES: the frame is executed and the sequencer goes on -/
  | close (c : Chip) (st : Byte) (t : State) (hs : s.seq = .pDes ∨ s.seq = .wDes ∨ s.seq = .cDes)
      (hst : st = s.srShadow ∨ st = s.latchStatus.srShadow)
      (hx : ∀ i, decode (.frame s.sent) = .ok i → exec i s = .next (closed { s with srShadow := st } c))
      (ht : afterInstr (closed { s with srShadow := st } c) = .next t) : Row s t

theorem step_close_row {s t : State} (hr : s.rst = false) (hs : s.seq = .pDes ∨ s.seq = .wDes ∨ s.seq = .cDes)
    (h : step s = .next t) : Row s.tick t := by
  cases hd : decode (.frame s.sent) with
  | ok i =>
    have hx := exec_frame (decode_frame_isFrame hd) s.tick
    rw [step_close hr hs hd, hx, andThen_next] at h
    refine Row.close _ _ t hs ?_ (fun j hj => ?_) h
    · split
      · exact .inr rfl
      · exact .inl rfl
    · cases hd.symm.trans hj
      exact hx
  | error e =>
    have hf : s.tick.fetch = .unreadable s.tick := by
      have hd' : decode (.frame s.tick.sent) = .error e := hd
      rcases hs with h | h | h <;> simp only [State.fetch, State.tick_seq, h, hd']
    rw [step_of_no_rst hr] at h
    simp only [stepBlock, hf] at h
    exact Row.close _ s.srShadow t hs (.inl rfl) (fun j hj => by cases hd.symm.trans hj) h

/-- A state that sends a byte and discards the answer has a row if it has a byte and a next state. -/
theorem step_send_row {s t : State} (hr : s.rst = false)
    (hs : s.seq ∈ [Seq.pCmd, .wCmd, .cOp, .cA2, .cA1, .cA0]) (h : step s = .next t) : Row s.tick t := by
  have key : ∃ b q, s.btTx = some b ∧ s.afterSend = some q := by
    simp only [List.mem_cons, List.not_mem_nil, or_false] at hs
    rcases hs with hs | hs | hs | hs | hs | hs
    case inr.inr.inl =>
      rw [step_cOp hr hs] at h
      cases ho : opcodeOf s.op with
      | none => simp only [rowCOp, State.tick_op, ho] at h; cases h
      | some b => exact ⟨b, _, by simp only [State.btTx, hs, ho], by simp only [State.afterSend, hs]; rfl⟩
    case inr.inr.inr.inr.inr =>
      rw [step_cA0 hr hs] at h
      cases ho : afterHeader s with
      | none => simp only [rowCA0, show afterHeader s.tick = none from ho] at h; cases h
      | some q => exact ⟨_, q, by simp only [State.btTx, hs]; rfl, by simp only [State.afterSend, hs, ho]⟩
    all_goals exact ⟨_, _, by simp only [State.btTx, hs]; rfl, by simp only [State.afterSend, hs]; rfl⟩
  obtain ⟨b, q, hb, hq⟩ := key
  rw [step_transferOut hr hb hq] at h
  cases h
  rcases transferOut_cases b (State.goTo q) s.tick with ⟨hl, h⟩ | ⟨hl, h⟩ <;> rw [h]
  · exact Row.held b hl (fun h' => by rw [State.tick_seq] at h'; simp [h'] at hs) hb
  · exact Row.sent b q hl hb hq

theorem step_cWr_row {s t : State} (hr : s.rst = false) (hs : s.seq = .cWr) (h : step s = .next t) : Row s.tick t := by
  rw [step_cWr hr hs] at h
  cases h
  rcases rowCWr_cases s.tick with ⟨ho, hw, h⟩ | ⟨d, v, h, hv⟩ <;> rw [h]
  · exact Row.waits hs ho hw
  · have hlv : v.transport = s.transport := by rcases hv with ⟨_, rfl⟩ | ⟨_, _, _, rfl⟩ <;> rfl
    rcases transferOut_cases d _ v with ⟨hl, h⟩ | ⟨hl, h⟩ <;> rw [sendData, h]
    · exact Row.dataHeld d v (hlv ▸ hl) hs hv
    · exact Row.dataSent d v (hlv ▸ hl) hs hv

/-- What a step can do: reset, or one row of the table. -/
theorem step_cases {s t : State} (h : step s = .next t) :
    (s.rst = true ∧ t = s.tick.resetBlock) ∨ (s.rst = false ∧ Row s.tick t) := by
  cases hr : s.rst with
  | true => rw [step_of_rst hr] at h; cases h; exact .inl ⟨rfl, rfl⟩
  | false =>
    refine .inr ⟨rfl, ?_⟩
    cases hs : s.seq
    case idle =>
      rcases step_idle_cases hr hs h with ⟨hq, rfl⟩ | ⟨w, rest, hq, rfl, hc⟩
      · exact Row.silent hs hq
      · exact Row.accept w rest hs hq hc
    case pSel => rw [step_pSel hr hs] at h; cases h; exact Row.select .pCmd (by simp [hs])
    case wSel => rw [step_wSel hr hs] at h; cases h; exact Row.select .wCmd (by simp [hs])
    case cSel => rw [step_cSel hr hs] at h; cases h; exact Row.select .cOp (by simp [hs])
    case pSta =>
      rw [step_pSta hr hs, rowPSta] at h
      cases h
      rcases transferIn_cases _ s.tick with ⟨hl, h⟩ | ⟨hl, h⟩ <;> rw [h]
      · exact Row.held _ hl (by simp [hs]) (by simp only [State.btTx, State.tick_seq, hs])
      · exact Row.status hl hs
    case cRd =>
      rw [step_cRd hr hs, rowCRd] at h
      cases h
      rcases transferIn_cases _ s.tick with ⟨hl, h⟩ | ⟨hl, h⟩ <;> rw [h]
      · exact Row.held _ hl (by simp [hs]) (by simp only [State.btTx, State.tick_seq, hs])
      · exact Row.dataRead hl hs
    case cWr => exact step_cWr_row hr hs h
    case fin => rw [step_fin hr hs] at h; cases h; exact Row.done hs
    case pDes | wDes | cDes => exact step_close_row hr (by simp [hs]) h
    case pCmd | wCmd | cOp | cA2 | cA1 | cA0 => exact step_send_row hr (by simp [hs]) h

/-- After a frame is closed the sequencer moves; it may load the chunk, start the poll count or raise the timeout (R191). -/
theorem afterInstr_eq {s t : State} (h : afterInstr s = .next t) :
    t = { s with seq := t.seq, chunk := t.chunk, pollCnt := t.pollCnt, timeoutErr := t.timeoutErr } := by
  unfold afterInstr at h
  split at h
  · rcases afterPDes_cases h with ⟨_, _, rfl⟩ | ⟨_, _, rfl⟩ | ⟨_, _, rfl⟩ | ⟨_, _, rfl⟩ | ⟨_, _, _, _, rfl⟩ <;> rfl
  · cases h
    rw [afterWDes, State.loadChunk_eq]
    rfl
  · cases h
    rcases afterCDes_cases s with ⟨_, _, h⟩ | ⟨_, h⟩ <;> rw [h] <;> rfl
  · cases h; rfl

end Sys2Proof.Machine
end

section

namespace Sys2Proof.Machine

open Sys2Proof.Claims

/-! ## What no row changes -/

/-- No row changes the inputs, and outside IDLE none takes a request (R28, R199). -/
theorem Row.kept {s t : State} (h : Row s t) :
    sameInputs s t ∧ (s.seq ≠ .idle → t.op = s.op ∧ t.requests = s.requests) := by
  cases h with
  | accept w rest hs => rw [State.leaveIdle_eq]; exact ⟨⟨rfl, rfl, rfl, rfl⟩, fun h => absurd hs h⟩
  | dataHeld d v hl hs hv | dataSent d v hl hs hv =>
    rcases hv with ⟨_, rfl⟩ | ⟨_, _, _, rfl⟩ <;> exact ⟨⟨rfl, rfl, rfl, rfl⟩, fun _ => ⟨rfl, rfl⟩⟩
  | close c st t hs hst hx ht => rw [afterInstr_eq ht]; exact ⟨⟨rfl, rfl, rfl, rfl⟩, fun _ => ⟨rfl, rfl⟩⟩
  | silent | select | held | sent | status | dataRead | waits | done => exact ⟨⟨rfl, rfl, rfl, rfl⟩, fun _ => ⟨rfl, rfl⟩⟩

/-- Settles O47: reset leaves the inputs too, and no row changes them or, outside IDLE, `op`. -/
theorem opIsFixedWhileBusy : Obligations.OpIsFixedWhileBusy := by
  intro s t h
  rcases step_cases h with ⟨hr, rfl⟩ | ⟨hr, h⟩
  · exact ⟨⟨rfl, rfl, rfl, rfl⟩, fun hr' => by simp [hr] at hr'⟩
  · obtain ⟨hin, hop⟩ := h.kept
    exact ⟨hin, fun _ hs => (hop hs).1⟩

/-- Settles O14: `request` outside IDLE is nothing, and no row there takes a word. -/
theorem requestsWaitWhileBusy : Obligations.RequestsWaitWhileBusy := by
  intro s hs
  have waits : ∀ c a n b, request c a n b s = .next s := fun c a n b => by rw [request, if_neg hs]
  refine ⟨fun a n => ⟨waits .., waits .., waits .., waits .., waits .., waits ..⟩, fun t h => ?_⟩
  rcases step_cases h with ⟨_, rfl⟩ | ⟨_, h⟩
  · rfl
  · exact (h.kept.2 hs).2

theorem afterInstr_timeoutErr {s t : State} (h : afterInstr s = .next t) :
    t.timeoutErr = s.timeoutErr ∨ (t.timeoutErr = true ∧ s.params.pollLimit ≠ none) := by
  unfold afterInstr at h
  split at h
  · rcases afterPDes_cases h with ⟨_, hlim, rfl⟩ | ⟨_, _, rfl⟩ | ⟨_, _, rfl⟩ | ⟨_, _, rfl⟩ | ⟨_, _, _, _, rfl⟩
    case inl => exact .inr ⟨rfl, fun h => by cases h.symm.trans hlim⟩
    all_goals exact .inl rfl
  · cases h
    exact .inl (by simp [afterWDes])
  · cases h
    rcases afterCDes_cases s with ⟨_, _, h⟩ | ⟨_, h⟩ <;> rw [h] <;> exact .inl rfl
  · cases h
    exact .inl rfl

/-- The timeout is raised only at a limit, and no row clears it (R246). -/
theorem Row.timeoutErr {s t : State} (h : Row s t) :
    t.timeoutErr = s.timeoutErr ∨ (t.timeoutErr = true ∧ s.params.pollLimit ≠ none) := by
  cases h with
  | accept => rw [State.leaveIdle_eq]; exact .inl rfl
  | dataHeld d v hl hs hv | dataSent d v hl hs hv => rcases hv with ⟨_, rfl⟩ | ⟨_, _, _, rfl⟩ <;> exact .inl rfl
  | close c st t hs hst hx ht => exact (afterInstr_timeoutErr ht :)
  | silent | select | held | sent | status | dataRead | waits | done => exact .inl rfl

/-- Settles O50: reset clears `timeout_err`, and a row raises it only at a limit. -/
theorem timeoutIsStickyAndNeedsALimit : Obligations.TimeoutIsStickyAndNeedsALimit := by
  intro s t h
  rcases step_cases h with ⟨hr, rfl⟩ | ⟨hr, h⟩
  · exact ⟨fun hr' => by simp [hr] at hr', fun _ _ => rfl⟩
  · rcases h.timeoutErr with h | ⟨h, hlim⟩
    · exact ⟨fun _ he => h.trans he, fun _ he => h.trans he⟩
    · exact ⟨fun _ _ => h, fun hn => absurd hn hlim⟩

/-! ## Where a step is refused or faults (R12, R240) -/

/-- In IDLE a step answers the next state, or refuses a request under the reading `refuse` (R56, R89). -/
theorem step_idle_outcome {s : State} (hr : s.rst = false) (hs : s.seq = .idle) :
    (∃ t, step s = .next t) ∨ (s.requests ≠ [] ∧ s.params.outOfContract = .refuse ∧
      ∃ r, step s = .refused r ∧ (r = .outOfContract ∨ r = .reservedRequest)) := by
  cases hq : s.requests with
  | nil => exact .inl ⟨s.tick, by rw [step_of_no_rst hr]; simp [stepBlock, State.fetch, hs, hq]⟩
  | cons w rest =>
    rcases decode_request_ok_or_reserved w with ⟨i, hd, _⟩ | ⟨_, hc⟩
    · obtain ⟨c, a, n, b, he, _⟩ := exec_request_cases (decode_request_isFrame hd) { s.tick with requests := rest }
      rw [stepExecutesTheRequestAtThePort s w rest i hr hs hq hd, he]
      rcases request_cases c a n b { s.tick with requests := rest } with ⟨h, _⟩ | ⟨_, _, hp, h⟩ | ⟨_, _, h⟩
      · exact absurd hs h
      · exact .inr ⟨by simp, hp, _, h, .inl rfl⟩
      · exact .inl ⟨_, h⟩
    · obtain ⟨href, hlit⟩ := reservedCodesAreRefusedOrCompleteAtOnce s w rest hr hs hq hc
      cases hp : s.params.outOfContract with
      | refuse => exact .inr ⟨by simp, rfl, _, href hp, .inr rfl⟩
      | literal => exact .inl ⟨_, hlit hp⟩

/-- The sequencer's part of a closing row refuses nothing. -/
theorem afterInstr_ne_refused (s : State) (r : Refusal) : afterInstr s ≠ .refused r := by
  unfold afterInstr afterPDes
  repeat' split
  all_goals simp

/-- Where a frame is closed, a step is the sequencer's part of the row on the closed frame. -/
theorem step_close_outcome {s : State} (hr : s.rst = false) (hs : s.seq = .pDes ∨ s.seq = .wDes ∨ s.seq = .cDes) :
    ∃ c st, step s = afterInstr (closed { s.tick with srShadow := st } c) := by
  obtain ⟨c, st, h, _⟩ := step_close_cases hr hs
  exact ⟨c, st, h⟩

/-- Outside IDLE no step is refused. -/
theorem step_busy_ne_refused {s : State} (hr : s.rst = false) (hs : s.seq ≠ .idle) (r : Refusal) : step s ≠ .refused r := by
  by_cases hc : s.seq = .pDes ∨ s.seq = .wDes ∨ s.seq = .cDes
  · obtain ⟨c, st, h⟩ := step_close_outcome hr hc
    rw [h]
    exact afterInstr_ne_refused _ r
  · obtain ⟨hp, hw, hd⟩ : s.seq ≠ .pDes ∧ s.seq ≠ .wDes ∧ s.seq ≠ .cDes := by tauto
    rw [step_row hr hs hp hw hd]
    unfold stepRow rowCOp rowCA0
    repeat' split
    all_goals simp

/-- Settles O42: a busy block refuses nothing, and an idle one only as `step_idle_outcome` says. -/
theorem refusalOnlyAtAcceptance : Obligations.RefusalOnlyAtAcceptance := by
  intro s r h
  have hr : s.rst = false := by
    by_contra hr
    rw [step_of_rst (by simpa using hr)] at h
    cases h
  have hs : s.seq = .idle := by
    by_contra hs
    exact step_busy_ne_refused hr hs r h
  rcases step_idle_outcome hr hs with ⟨t, ht⟩ | ⟨hq, hp, r', h', hr'⟩
  · cases h.symm.trans ht
  · cases h.symm.trans h'
    exact ⟨hs, hq, hp, hr'⟩

/-! ## The streams (R29, R30) -/

/-- What a step adds to the log decides what is taken and delivered. -/
theorem State.dataTaken_append {s t : State} {ev : List Event} (h : t.events = s.events ++ ev) :
    t.dataTaken = s.dataTaken ++ State.dataTaken { t with events := ev } := by
  simp [State.dataTaken, h]

theorem State.readData_append {s t : State} {ev : List Event} (h : t.events = s.events ++ ev) :
    t.readData = s.readData ++ State.readData { t with events := ev } := by
  simp [State.readData, h]

theorem State.completions_append {s t : State} {ev : List Event} (h : t.events = s.events ++ ev) :
    t.completions = s.completions + State.completions { t with events := ev } := by
  simp [State.completions, h]

/-- A row moves data only in C_RD, where the byte received is pushed, and in C_WR, where one byte may be taken. -/
theorem Row.data {s t : State} (h : Row s t) :
    (t.wdata = s.wdata ∧ t.dataTaken = s.dataTaken ∨
      s.seq = .cWr ∧ s.outstanding = none ∧ ∃ d, s.wdata = d :: t.wdata ∧ t.dataTaken = s.dataTaken ++ [d]) ∧
    t.readData = s.readData ++ if s.seq = .cRd ∧ s.transport ≠ .stalled then [s.received] else [] := by
  cases h with
  | silent hs => simp [hs]
  | waits hs => simp [hs]
  | accept w rest hs => rw [State.leaveIdle_eq]; simp [State.dataTaken, State.readData, hs]
  | select q hs =>
    have : s.seq ≠ .cRd := by rintro h; simp [h] at hs
    simp [State.dataTaken, State.readData, this]
  | held b hl => simp [State.dataTaken, State.readData, hl]
  | sent b q hl hb hq =>
    have : s.seq ≠ .cRd := by rintro h; have := State.afterSend_seq hq; simp [h] at this
    simp [State.dataTaken, State.readData, this]
  | status hl hs => simp [State.statusRead, State.dataTaken, State.readData, hs]
  | dataRead hl hs => simp [State.dataRead, State.dataTaken, State.readData, hs, hl]
  | dataHeld d v hl hs hv =>
    rcases hv with ⟨_, rfl⟩ | ⟨ho, rest, hw, rfl⟩
    · simp [State.dataTaken, State.readData, hs]
    · simp [State.dataTaken, State.readData, hs, ho, hw]
  | dataSent d v hl hs hv =>
    rcases hv with ⟨_, rfl⟩ | ⟨ho, rest, hw, rfl⟩
    · simp [State.dataSent, State.dataTaken, State.readData, hs]
    · simp [State.dataSent, State.dataTaken, State.readData, hs, ho, hw]
  | done hs => simp [State.dataTaken, State.readData, hs]
  | close c st t hs hst hx ht =>
    have : s.seq ≠ .cRd := by rintro h; simp [h] at hs
    rw [afterInstr_eq ht]
    simp [closed, State.dataTaken, State.readData, this]

/-- Settles O48: reset moves no data, and the rows move it as `Row.data` says. -/
theorem dataMovesOnlyInItsState : Obligations.DataMovesOnlyInItsState := by
  intro s t h
  have hvalid : s.rdataValid = true → s.seq = .cRd := by simp +contextual [State.rdataValid]
  rcases step_cases h with ⟨hr, rfl⟩ | ⟨hr, h⟩
  · refine ⟨.inl ⟨rfl, ?_⟩, ?_, hvalid⟩ <;> cases hb : s.btSelect <;>
      simp [State.dataTaken, State.readData, State.rdataValid, hb, hr]
  · obtain ⟨htaken, hread⟩ := h.data
    have hready : s.seq = .cWr → s.outstanding = none → s.wdataReady = true := fun hs ho => by
      simp [State.wdataReady, hs, ho, hr]
    refine ⟨htaken.imp id fun ⟨hs, ho, hd⟩ => ⟨hs, hready hs ho, hd⟩, ?_, hvalid⟩
    · rw [hread]
      simp only [State.tick_seq, State.tick_transport, State.rdataValid, hr, Bool.not_false, Bool.and_true, Bool.and_eq_true,
        decide_eq_true_eq]
      rfl

end Sys2Proof.Machine
end

section

namespace Sys2Proof.Machine

open Sys2Proof.Claims

/-! ## Runs -/

theorem runSteps_of_step {s t : State} {k : Nat} (h : step s = .next t) : runSteps (k + 1) s = runSteps k t := by
  rw [runSteps, h, andThen_next]

theorem runSteps_one {s t : State} (h : step s = .next t) : runSteps 1 s = .next t := runSteps_of_step h

/-- A run goes on from where its first part ends. -/
theorem runSteps_trans {j k : Nat} {s t : State} {o : Host.Outcome State Fault Refusal} (h : runSteps j s = .next t)
    (h' : runSteps k t = o) : runSteps (j + k) s = o := by
  induction j generalizing s with
  | zero => cases h; rwa [Nat.zero_add]
  | succ j ih =>
    obtain ⟨u, hu, hj⟩ := andThen_eq_next h
    rw [Nat.succ_add, runSteps_of_step hu]
    exact ih hj

/-! ## The environment alone (R214) -/

/-- Whether a chip of this pace takes its "finished" step at a draw. -/
def Pace.finishes (p : Pace) (n : Nat) : Bool :=
  match p with
  | .free => Config.freeFinish n
  | .prompt => true
  | .every m => decide (n % (m + 1) = 0)
  | .never => false

theorem State.finishes_eq (s : State) : s.finishes = s.pace.finishes s.draw := by
  cases h : s.pace <;> simp [State.finishes, Pace.finishes, h]

/-- The chip after `k` moves of the environment, the first of them at draw `n`: only the busy bit may have fallen. -/
def Chip.after (c : Chip) (p : Pace) (n k : Nat) : Chip :=
  { c with wip := c.wip && !(List.range k).any fun i => p.finishes (n + i) }

@[simp] theorem Chip.after_mem (c : Chip) (p : Pace) (n k : Nat) : (c.after p n k).mem = c.mem := rfl
@[simp] theorem Chip.after_wel (c : Chip) (p : Pace) (n k : Nat) : (c.after p n k).wel = c.wel := rfl

theorem Chip.after_of_idle {c : Chip} (p : Pace) (n k : Nat) (h : c.wip = false) : c.after p n k = c := by
  cases c; simp_all [Chip.after]

theorem Chip.after_never (c : Chip) (n k : Nat) : c.after .never n k = c := by
  have hno : (List.range k).any (fun i => Pace.finishes .never (n + i)) = false := List.any_eq_false.mpr fun _ _ => by
    simp [Pace.finishes]
  simp [Chip.after, hno]

/-- Once the chip has had the draw at which it finishes, it is idle. -/
theorem Chip.after_idle {c : Chip} {p : Pace} {n k i : Nat} (hi : i < k) (h : p.finishes (n + i) = true) :
    (c.after p n k).wip = false := by
  simp only [Chip.after, Bool.and_eq_false_iff, Bool.not_eq_false', List.any_eq_true, List.mem_range]
  exact .inr ⟨i, hi, h⟩

theorem Chip.after_after (c : Chip) (p : Pace) (n j k : Nat) : (c.after p n j).after p (n + j) k = c.after p n (j + k) := by
  simp [Chip.after, List.range_add, Bool.and_assoc, Nat.add_assoc, Function.comp_def]

/-- `s` after `k` moves of the environment alone. -/
def State.after (s : State) (k : Nat) : State := { s with chip := s.chip.after s.pace s.draw k, draw := s.draw + k }

theorem State.tick_eq (s : State) : s.tick = s.after 1 := by
  simp [State.tick, State.after, Chip.after, State.finishes_eq]

theorem State.after_zero (s : State) : s.after 0 = s := by simp [State.after, Chip.after]

theorem State.after_after (s : State) (j k : Nat) : (s.after j).after k = s.after (j + k) := by
  simp [State.after, Chip.after_after, Nat.add_assoc]

theorem State.after_of_idle {s : State} (k : Nat) (h : s.chip.wip = false) : s.after k = { s with draw := s.draw + k } := by
  rw [State.after, Chip.after_of_idle _ _ _ h]

theorem State.after_of_never {s : State} (k : Nat) (h : s.pace = .never) : s.after k = { s with draw := s.draw + k } := by
  rw [State.after, h, Chip.after_never]

/-- A block that only lets the environment move does so for any number of steps. -/
theorem runSteps_after {P : State → Prop} (hP : ∀ s, P s → step s = .next s.tick ∧ P s.tick) (k : Nat) {s : State}
    (h : P s) : runSteps k s = .next (s.after k) := by
  induction k generalizing s with
  | zero => rw [State.after_zero]; rfl
  | succ k ih => rw [runSteps_of_step (hP s h).1, ih (hP s h).2, State.tick_eq, State.after_after, Nat.add_comm]

/-- IDLE with nothing offered, and C_WR without a byte: the block waits. -/
def State.Waiting (s : State) : Prop :=
  s.rst = false ∧ (s.seq = .idle ∧ s.requests = [] ∨ s.seq = .cWr ∧ s.outstanding = none ∧ s.wdata = [])

theorem State.Waiting.step {s : State} (h : s.Waiting) : step s = .next s.tick ∧ s.tick.Waiting := by
  refine ⟨?_, h⟩
  obtain ⟨hr, ⟨hs, hq⟩ | ⟨hs, ho, hw⟩⟩ := h
  · rw [step_of_no_rst hr]
    simp [stepBlock, State.fetch, hs, hq]
  · rw [step_cWr hr hs]
    simp [rowCWr, ho, hw]

/-- Settles O9: only the environment moves. -/
theorem idleBlockStaysSilent : Obligations.IdleBlockStaysSilent := by
  intro k s hr hs hq
  refine ⟨_, runSteps_after (fun _ => State.Waiting.step) k ⟨hr, .inl ⟨hs, hq⟩⟩, ?_⟩
  exact ⟨hs, rfl, rfl, rfl, ⟨rfl, rfl, rfl, rfl⟩, rfl, rfl⟩

/-- Settles O30: only the environment moves, and `bt_select` is 1 in C_WR. -/
theorem writeWaitsForTheClient : Obligations.WriteWaitsForTheClient := by
  intro k s hinv hr hs ho hw
  have hsel : s.btSelect = true := by rw [hinv.select, hs]; rfl
  refine ⟨_, runSteps_after (fun _ => State.Waiting.step) k ⟨hr, .inr ⟨hs, ho, hw⟩⟩, ?_⟩
  exact ⟨hs, hsel, rfl, rfl, ⟨rfl, rfl, rfl, rfl⟩, fun hidle => by rw [State.after_of_idle k hidle]⟩

/-! ## Polls (R131, R134) -/

/-- `s`, in P_SEL, with the opcode of a read-status frame sent. -/
def State.pollAsked (s : State) : State := (s.tick.select.goTo .pCmd).sendTo opcRDSR .pSta

/-- `s`, in P_SEL, with the exchanges of a read-status frame made and the frame still open. -/
def State.pollOpen (s : State) : State := s.pollAsked.tick.statusRead s.pollAsked.tick.received

theorem State.pollOpen_eq (s : State) : s.pollOpen =
    { s.after 3 with
      seq := .pDes
      srShadow := s.pollOpen.srShadow
      btSelect := true
      pollCnt := if s.params.pollLimit.isSome then s.pollCnt + 1 else s.pollCnt
      outstanding := none
      frame := [{ tx := opcRDSR, rx := none }, { tx := s.params.dummyTx, rx := some s.pollOpen.srShadow }]
      events := s.events ++ [.sel, out opcRDSR, .xfer s.params.dummyTx (some s.pollOpen.srShadow)] } := by
  simp [State.pollOpen, State.pollAsked, State.sendTo, State.statusRead, State.tick_eq, State.after, State.select, State.goTo,
    State.exchange, out, Chip.after_after]

theorem runSteps_three_of_pSel {s : State} (hr : s.rst = false) (hs : s.seq = .pSel) (hl : s.transport ≠ .stalled) :
    runSteps 3 s = .next s.pollOpen := by
  have hsel : step s = .next (s.tick.select.goTo .pCmd) := step_pSel hr hs
  have hask : step (s.tick.select.goTo .pCmd) = .next s.pollAsked := step_send hr hl rfl rfl
  have hread : step s.pollAsked = .next s.pollOpen := step_status hr rfl hl
  rw [runSteps_of_step hsel, runSteps_of_step hask, runSteps_one hread]

/-- The status byte that is delivered shows whether the chip is busy (R213). -/
theorem State.wipSeen_pollOpen {s : State} (ht : s.transport ≠ .unfaithful) :
    s.pollOpen.wipSeen = (s.after 3).chip.wip := by
  have hchip : s.pollAsked.tick.chip = (s.after 3).chip := by
    simp [State.pollAsked, State.sendTo, State.tick_eq, State.after, State.select, State.goTo, State.exchange, Chip.after_after]
  rw [← hchip]
  exact State.received_status (s := s.pollAsked.tick) ht rfl

/-- Settles O25: the three steps of `runSteps_three_of_pSel`. -/
theorem pollSendsOneReadStatusFrame : Obligations.PollSendsOneReadStatusFrame := by
  intro s hr hs hl
  refine ⟨_, runSteps_three_of_pSel hr hs hl, ?_⟩
  rw [State.pollOpen_eq]
  exact ⟨rfl, rfl, ⟨rfl, rfl, rfl, rfl⟩, ⟨rfl, rfl, rfl, rfl⟩, rfl, rfl, rfl, rfl⟩

/-- Settles O23: `step_status`, and what the chip answers to RDSR. -/
theorem statusByteShowsTheBusyBit : Obligations.StatusByteShowsTheBusyBit := by
  intro s x hr hs hl hf
  refine ⟨_, s.tick.received, step_status hr hs hl, rfl, rfl, rfl, ⟨rfl, rfl, rfl, rfl⟩, rfl, fun ht => ?_⟩
  exact State.received_status (s := s.tick) (by simp [ht]) (by simp [State.sent, hf])

/-- A complete read-status frame is closed, and the sequencer reads bit 0 of the status byte in `sr_shadow` (R111, R131). -/
theorem step_pDes {s : State} {x : Exchange} {d : Byte} (hr : s.rst = false) (hs : s.seq = .pDes)
    (hf : s.frame = [x, { tx := d, rx := some s.srShadow }]) (hx : x.tx = opcRDSR) :
    step s = afterPDes (closed s.tick (s.tick.react (some s.tick.chip))) := by
  have hd : decode (.frame s.sent) = .ok .rdsr := by simp [State.sent, hf, hx]
  have hst : s.tick.latchStatus.srShadow = s.srShadow := by rw [State.latchStatus_of_frame (s := s.tick) hf]
  rw [step_close hr (.inl hs) hd, exec_rdsr, hst, andThen_next]
  simp only [afterInstr, closed, State.tick_seq, hs]
  rfl

/-- A poll that reads idle leads on by `op` (R131, R191). -/
theorem afterPDes_of_idle {s : State} (hw : s.wipSeen = false) (hop : s.op.toNat ≤ 5) :
    afterPDes s = .next (s.goTo (if s.op = codeWait then .fin else if s.op = codeRead then .cSel else .wSel)) := by
  rw [afterPDes, if_neg (by simp [hw]), if_pos hop]
  split
  · rfl
  · split <;> rfl

/-- A poll that reads busy is repeated below the limit (R131). -/
theorem afterPDes_of_busy {s : State} (hw : s.wipSeen = true) (hlim : s.params.pollLimit ≠ some s.pollCnt) :
    afterPDes s = .next (s.goTo .pSel) := by
  rw [afterPDes, if_pos hw, if_neg hlim]

/-- A poll that reads busy at the limit gives up (R246). -/
theorem afterPDes_of_limit {s : State} (hw : s.wipSeen = true) (hlim : s.params.pollLimit = some s.pollCnt) :
    afterPDes s = .next s.raisePollTimeout := by
  rw [afterPDes, if_pos hw, if_pos hlim]

/-- Settles O26: `step_pDes`, and where the sequencer goes by the status byte. -/
theorem pollEndsOnlyOnBitZero : Obligations.PollEndsOnlyOnBitZero := by
  intro s x hr hs hop hf
  rw [step_pDes hr hs hf rfl]
  let u := closed s.tick (s.tick.react (some s.tick.chip))
  have hseen : u.wipSeen = s.srShadow.getLsbD 0 := rfl
  cases hw : s.srShadow.getLsbD 0 with
  | false =>
    refine ⟨_, afterPDes_of_idle (hseen.trans hw) hop, rfl, rfl, rfl, ⟨rfl, rfl, rfl, rfl⟩, by simp, by simp,
      fun _ => ⟨rfl, rfl⟩⟩
  | true =>
    by_cases hlim : s.params.pollLimit = some s.pollCnt
    · exact ⟨_, afterPDes_of_limit (hseen.trans hw) hlim, rfl, rfl, rfl, ⟨rfl, rfl, rfl, rfl⟩, fun _ h => absurd hlim h,
        fun _ _ => ⟨rfl, rfl⟩, by simp⟩
    · exact ⟨_, afterPDes_of_busy (hseen.trans hw) hlim, rfl, rfl, rfl, ⟨rfl, rfl, rfl, rfl⟩, fun _ _ => ⟨rfl, rfl⟩,
        fun _ h => absurd h hlim, by simp⟩

/-- `s`, in P_SEL, with one poll made and its frame closed. -/
def State.polled (s : State) : State := closed s.pollOpen.tick s.pollOpen.tick.chip

theorem State.polled_eq (s : State) : s.polled =
    { s.after 4 with
      seq := .pDes
      srShadow := s.polled.srShadow
      btSelect := false
      pollCnt := if s.params.pollLimit.isSome then s.pollCnt + 1 else s.pollCnt
      outstanding := none
      frame := []
      events := s.events ++ [.sel, out opcRDSR, .xfer s.params.dummyTx (some s.polled.srShadow), .des] } := by
  rw [State.polled, State.pollOpen_eq]
  simp [closed, State.tick_eq, State.after, Chip.after_after]

/-- A poll takes four steps, the last of which goes by the status byte (R131, R134). -/
theorem runSteps_four_of_pSel {s : State} (hr : s.rst = false) (hs : s.seq = .pSel) (hl : s.transport ≠ .stalled)
    (ht : s.transport ≠ .unfaithful) : runSteps 4 s = afterPDes s.polled := by
  refine runSteps_trans (j := 3) (k := 1) (runSteps_three_of_pSel hr hs hl) ?_
  have hstep : step s.pollOpen = afterPDes s.polled := by
    rw [step_pDes (s := s.pollOpen) hr rfl rfl rfl, State.react_some (s := s.pollOpen.tick) ht]
    rfl
  rw [runSteps, hstep]
  cases afterPDes s.polled <;> rfl

theorem State.wipSeen_polled {s : State} (ht : s.transport ≠ .unfaithful) :
    s.polled.wipSeen = (s.after 3).chip.wip := by
  have hshadow : s.polled.wipSeen = s.pollOpen.wipSeen := rfl
  rw [hshadow, State.wipSeen_pollOpen ht]

/-! ## The command frame (R110, R151, R163) -/

/-- The opcode and where the header leads, for the three requests whose command has an address (R191, R194). -/
theorem header_of_op {s : State} (hop : s.op.toNat ≤ 2) :
    opcodeOf s.op = some (if s.op = codeRead then 0x03#8 else if s.op = codeWrite then 0x02#8 else 0xD8#8) ∧
      afterHeader s = some (if s.op = codeRead then (if s.remaining = 0#24 then .cDes else .cRd)
        else if s.op = codeWrite then (if s.chunk = 0#9 then .cDes else .cWr) else .cDes) ∧ s.op ≠ codeEraseAll := by
  have hcases : s.op = codeRead ∨ s.op = codeWrite ∨ s.op = codeEraseSector := by
    rcases code_cases s.op with h | h | h | h | h | h | h | h <;> simp [h, codeRead, codeWrite, codeEraseSector, codeEraseAll,
      codeWait, codeEnableWrite] at hop ⊢
  rcases hcases with h | h | h <;> simp [opcodeOf, afterHeader, h, codeRead, codeWrite, codeEraseSector, codeEraseAll,
    opcREAD, opcPP, opcSE]

/-- `s`, in C_SEL, with the four header bytes sent, led to `q` by the last. -/
def State.headerSent (s : State) (opc : Byte) (q : Seq) : State :=
  ((((s.tick.select.goTo .cOp).sendTo opc .cA2).sendTo (addrByte2 s.curAddr) .cA1).sendTo (addrByte1 s.curAddr) .cA0).sendTo
    (addrByte0 s.curAddr) q

theorem State.headerSent_eq (s : State) (opc : Byte) (q : Seq) : s.headerSent opc q =
    { s.after 5 with
      seq := q
      btSelect := true
      outstanding := none
      frame := (header opc s.curAddr).map fun b => { tx := b, rx := none }
      events := s.events ++ [.sel, out opc, out (addrByte2 s.curAddr), out (addrByte1 s.curAddr), out (addrByte0 s.curAddr)] } := by
  simp [State.headerSent, State.sendTo, State.tick_eq, State.after, State.select, State.goTo, State.exchange, header, out,
    Chip.after_after]

/-- From C_SEL the header goes out in five steps (R83, R110). -/
theorem runSteps_five_of_cSel {s : State} {opc : Byte} {q : Seq} (hr : s.rst = false) (hs : s.seq = .cSel)
    (hl : s.transport ≠ .stalled) (hopc : opcodeOf s.op = some opc) (hne : s.op ≠ codeEraseAll)
    (hq : afterHeader s = some q) : runSteps 5 s = .next (s.headerSent opc q) := by
  let u1 := s.tick.select.goTo .cOp
  let u2 := u1.sendTo opc .cA2
  let u3 := u2.sendTo (addrByte2 s.curAddr) .cA1
  let u4 := u3.sendTo (addrByte1 s.curAddr) .cA0
  have hhead : afterHeader u4 = afterHeader s := by
    rw [State.afterHeader_sendTo, State.afterHeader_sendTo, State.afterHeader_sendTo]; rfl
  have h1 : step s = .next u1 := step_cSel hr hs
  have h2 : step u1 = .next u2 := step_send (by simpa [u1] using hr) (by simpa [u1] using hl)
    (by simpa [u1, State.btTx] using hopc) (by simp [u1, State.afterSend, hne])
  have h3 : step u2 = .next u3 := step_send (by simpa [u2, u1] using hr) (by simpa [u2, u1] using hl)
    (by simp [u2, u1, State.btTx]) (by simp [u2, State.afterSend])
  have h4 : step u3 = .next u4 := step_send (by simpa [u3, u2, u1] using hr) (by simpa [u3, u2, u1] using hl)
    (by simp [u3, u2, u1, State.btTx]) (by simp [u3, State.afterSend])
  have h5 : step u4 = .next (s.headerSent opc q) := step_send (by simpa [u4, u3, u2, u1] using hr)
    (by simpa [u4, u3, u2, u1] using hl) (by simp [u4, u3, u2, u1, State.btTx]) (hhead.trans hq)
  rw [runSteps_of_step h1, runSteps_of_step h2, runSteps_of_step h3, runSteps_of_step h4, runSteps_one h5]

/-- Settles O28: the five steps of `runSteps_five_of_cSel`. -/
theorem headerGoesMostSignificantFirst : Obligations.HeaderGoesMostSignificantFirst := by
  intro s hr hs hl hop
  obtain ⟨hopc, hq, hne⟩ := header_of_op hop
  refine ⟨_, runSteps_five_of_cSel hr hs hl hopc hne hq, ?_⟩
  rw [State.headerSent_eq]
  exact ⟨rfl, rfl, ⟨rfl, rfl, rfl, rfl⟩, rfl, rfl, rfl, rfl⟩

/-- Settles O24: `step_dataRead`, and what an idle chip answers to READ. -/
theorem readByteComesFromTheArray : Obligations.ReadByteComesFromTheArray := by
  intro s a k hr hs hl hf
  have hlast : s.remaining - 1#24 = 0#24 ↔ s.remaining = 1#24 := by bv_omega
  refine ⟨_, s.tick.received, step_dataRead hr hs hl, ?_, ?_, ?_, ?_, ?_, fun ht hw hin => ?_⟩
  case refine_6 =>
    have h := State.received_data (s := s.tick) (data := List.replicate k s.params.dummyTx) (by simp [ht]) hf
      (State.tick_wip_of_idle hw) (by simpa using hin)
    rwa [List.length_replicate] at h
  all_goals simp [State.dataRead, hlast]

/-- Settles O29: `step_dataSent`, whoever has taken the byte. -/
theorem writeByteIsTakenSentAndCounted : Obligations.WriteByteIsTakenSentAndCounted := by
  intro s d taken hr hs hl h
  have hlast : s.chunk - 1#9 = 0#9 ↔ s.chunk = 1#9 := by bv_omega
  rcases h with ⟨ho, hw, rfl⟩ | ⟨ho, rfl⟩
  · obtain ⟨rest, hw⟩ : ∃ rest, s.wdata = d :: rest := by
      cases hd : s.wdata <;> simp [hd] at hw
      exact ⟨_, by rw [hw]⟩
    refine ⟨_, step_dataSent hr hs hl (.inr ⟨ho, rest, hw, rfl⟩), ?_⟩
    simp [State.dataSent, State.sent, ho, hw, hlast, out]
  · refine ⟨_, step_dataSent hr hs hl (.inl ⟨ho, rfl⟩), ?_⟩
    simp [State.dataSent, State.sent, ho, hlast, out]

/-- The end of a command frame, whatever the chip makes of it (R170). -/
theorem step_cDes {s : State} (hr : s.rst = false) (hs : s.seq = .cDes) :
    ∃ c st, step s = .next (afterCDes (closed { s.tick with srShadow := st } c)) := by
  obtain ⟨c, st, h⟩ := step_close_outcome hr (.inr (.inr hs))
  refine ⟨c, st, h.trans ?_⟩
  simp only [afterInstr, closed, State.tick_seq, hs]

/-- Settles O31: closing the frame leaves the datapath to `afterCDes`. -/
theorem commandFrameEndsTheRequestOrPolls : Obligations.CommandFrameEndsTheRequestOrPolls := by
  intro s hr hs
  obtain ⟨c, st, h⟩ := step_cDes hr hs
  refine ⟨_, h, ?_⟩
  rcases afterCDes_cases (closed { s.tick with srShadow := st } c) with ⟨hop, hrem, h⟩ | ⟨hmore, h⟩ <;> rw [h]
  · exact ⟨rfl, rfl, ⟨rfl, rfl, rfl, rfl⟩, (if_pos ⟨hop, hrem⟩).symm⟩
  · exact ⟨rfl, rfl, ⟨rfl, rfl, rfl, rfl⟩, (if_neg hmore).symm⟩

/-! ## FIN and reset -/

/-- Settles O32: the row of FIN. -/
theorem finSignalsDoneOnce : Obligations.FinSignalsDoneOnce := by
  intro s hr hs
  exact ⟨by simp [State.done, hs, hr], step_fin hr hs⟩

/-- Settles O15: acceptance goes to FIN, and FIN to IDLE. -/
theorem zeroLengthWriteTouchesNothing : Obligations.ZeroLengthWriteTouchesNothing := by
  intro s a rest hr hs hq ha hz
  have hin : wordInContract s.params (packRequest codeWrite a 0#24) = true :=
    wordInContract_pack (by decide) (fun _ => by simp [rangeInContract, ha, Nat.le_of_lt]) (by simp [codeWrite, codeEraseSector])
  have haccept := step_accept hr hs hq (.inr hin)
  rw [State.leaveIdle, if_pos (by simp [hz])] at haccept
  refine ⟨_, (runSteps_of_step haccept).trans (runSteps_one (step_fin hr rfl)), rfl, rfl, rfl, rfl, rfl, rfl, rfl, rfl⟩

/-- Settles O36: the reset state evaluated. -/
theorem resetStateAsTheSpecGivesIt : Obligations.ResetStateAsTheSpecGivesIt :=
  ⟨rfl, rfl, rfl, rfl, rfl, rfl, rfl, rfl, rfl, rfl, rfl, rfl⟩

/-- Settles O37: every port is gated by `rst`, and the step is `resetBlock`. -/
theorem rstOverridesEveryTransition : Obligations.RstOverridesEveryTransition := by
  intro s hr
  refine ⟨by simp [State.done, hr], by simp [State.btStart, hr], by simp [State.rdataValid, hr],
    by simp [State.wdataReady, hr], _, step_of_rst hr, rfl, rfl, rfl, rfl, rfl, rfl, ?_, rfl, rfl, ?_, rfl, ?_, ?_⟩
  · simp [State.reqReady, hr]
  · cases hb : s.btSelect <;> simp [State.completions, hb]
  · exact fun hb => State.cutFrame_of_closed (s := s.tick) hb
  · exact fun hw => State.cutFrame_of_busy (s := s.tick) hw

end Sys2Proof.Machine
end

section

namespace Sys2Proof.Machine

open Sys2Proof.Claims

/-! ## The frame a closing state closes (R82, R110) -/

/-- The frame that stands complete in a closing state of the sequencer, by what the request in progress is. -/
def State.Closes (s : State) : Instr → Prop
  | .rdsr => s.seq = .pDes
  | .wren => s.seq = .wDes
  | .readData a n => s.seq = .cDes ∧ s.op = codeRead ∧ s.ReadFrame a n
  | .pp a d => s.seq = .cDes ∧ s.op = codeWrite ∧ s.ProgramFrame a d ∧ (d ≠ [] ∨ s.params.zeroLenWriteEmitsFrame = true)
  | .se a => s.seq = .cDes ∧ s.op = codeEraseSector ∧ a = s.curAddr
  | .be => s.seq = .cDes ∧ s.op = codeEraseAll
  | .readReq _ _ | .writeReq _ _ | .eraseSectorReq _ _ | .eraseAllReq _ _ | .waitReq _ _ | .enableWriteReq _ _ => False

/-- The codes of the requests that have a command frame (R194). -/
theorem code_le_three {c : Code} (h : c.toNat ≤ 3) :
    c = codeRead ∨ c = codeWrite ∨ c = codeEraseSector ∨ c = codeEraseAll := by
  revert c; decide

/-- Where a frame is closed it is complete, and the decoder reads it as what the request sends (R82). -/
theorem State.Inv.closes {s : State} (h : s.Inv) (hs : s.seq = .pDes ∨ s.seq = .wDes ∨ s.seq = .cDes) :
    ∃ i, decode (.frame s.sent) = .ok i ∧ s.Closes i := by
  have hf := h.frame
  rcases hs with hs | hs | hs <;> simp only [State.FrameOk, hs] at hf
  · exact ⟨.rdsr, by simp [State.sent, hf], hs⟩
  · exact ⟨.wren, by simp [hf], hs⟩
  · have hop := h.op
    simp only [State.OpOk, hs] at hop
    obtain ⟨hread, hwrite, hse, hbe⟩ := hf
    rcases code_le_three hop with ho | ho | ho | ho
    · obtain ⟨a, k, hr⟩ := hread ho
      exact ⟨.readData a k, by simp [hr.1], hs, ho, hr⟩
    · obtain ⟨a, d, hp, hd⟩ := hwrite ho
      exact ⟨.pp a d, by simp [hp.1], hs, ho, hp, hd⟩
    · exact ⟨.se s.curAddr, by simp [hse ho], hs, ho, rfl⟩
    · exact ⟨.be, by simp [hbe ho], hs, ho⟩

/-- Settles O43: the frames of `State.Closes`, with the page of the program frame and the operand contract. -/
theorem closedFramesAreWellFormed : Obligations.ClosedFramesAreWellFormed := by
  intro s h hs
  obtain ⟨i, hd, hi⟩ := h.closes (by simpa using hs)
  refine ⟨i, hd, fun hp hz => ?_⟩
  cases i with
  | pp a d =>
    obtain ⟨_, _, ⟨_, _, hpage, hc⟩, hne⟩ := hi
    obtain ⟨ha, hin⟩ := hc hp
    have h1 : 1 ≤ d.length := List.length_pos_iff.mpr (by simpa [hz] using hne)
    simp only [Instr.wellFormed, fitsPage, rangeInContract, Bool.and_eq_true, decide_eq_true_eq]
    omega
  | readData a n =>
    obtain ⟨_, _, _, _, hc⟩ := hi
    obtain ⟨ha, hin⟩ := hc hp
    simp only [Instr.wellFormed, rangeInContract, Bool.and_eq_true, decide_eq_true_eq]
    omega
  | rdsr | wren | be => rfl
  | se a =>
    obtain ⟨hq, ho, rfl⟩ := hi
    obtain ⟨_, _, hse⟩ := h.contract hp (by simp [hq]) (by simp [hq])
    simpa [Instr.wellFormed, addrInContract] using hse ho
  | readReq a n | writeReq a n | eraseSectorReq a n | eraseAllReq a n | waitReq a n | enableWriteReq a n => exact hi.elim

/-- The opcode of a command frame is one of four (R194). -/
theorem opcodeOf_mem {c : Code} {b : Byte} (h : opcodeOf c = some b) : b ∈ [opcREAD, opcPP, opcSE, opcBE] := by
  unfold opcodeOf at h
  repeat' split at h
  all_goals cases h
  all_goals simp

/-- The open frame begins with the opcode of RDSR, WREN or the command, by the state of the sequencer (R90). -/
theorem State.Inv.opcode_sent {s : State} {b : Byte} (h : s.Inv) (hb : s.sent.head? = some b) :
    b ∈ [opcRDSR, opcWREN, opcREAD, opcPP, opcSE, opcBE] := by
  have begins : ∀ {c : Byte} {l : List Byte}, s.sent = c :: l → c = b := fun hl => by
    rw [hl] at hb; exact Option.some.inj hb
  have hf := h.frame
  cases hs : s.seq <;> simp only [State.FrameOk, hs] at hf
  case pSta | pDes => simp [State.sent, hf] at hb; simp [← hb]
  case wDes => simp [← begins hf]
  case cA2 | cA1 | cA0 =>
    obtain ⟨opc, ho, hl⟩ := hf
    have hmem := opcodeOf_mem ho
    rw [begins hl] at hmem
    exact List.mem_append_right [opcRDSR, opcWREN] hmem
  case cRd => obtain ⟨a, k, hl, _⟩ := hf; simp [← begins hl]
  case cWr => obtain ⟨a, d, hl, _⟩ := hf; simp [← begins hl]
  case cDes =>
    have hop := h.op
    simp only [State.OpOk, hs] at hop
    obtain ⟨hread, hwrite, hse, hbe⟩ := hf
    rcases code_le_three hop with ho | ho | ho | ho
    · obtain ⟨a, k, hl, _⟩ := hread ho; simp [← begins hl]
    · obtain ⟨a, d, ⟨hl, _⟩, _⟩ := hwrite ho; simp [← begins hl]
    · simp [← begins (hse ho)]
    · simp [← begins (hbe ho)]
  all_goals simp [State.sent, hf] at hb

/-- Settles O44: the first exchange of the frame sends its first byte. -/
theorem onlySixOpcodesAreSent : Obligations.OnlySixOpcodesAreSent := by
  intro s x rest h hx
  exact h.opcode_sent (by simp [State.sent, hx])

end Sys2Proof.Machine
end

section

namespace Sys2Proof.Machine

open Sys2Proof.Claims

/-! ## The rows from a state that meets the invariant -/

/-- The environment's part of a step keeps the invariant: it touches the busy bit and the draw alone. -/
theorem State.Inv.tick {s : State} (h : s.Inv) : s.tick.Inv :=
  ⟨h.memory, h.select, h.transfer, h.op, h.count, h.frame, h.status, h.poll, h.contract⟩

theorem State.Inv.outstanding_none {s : State} (h : s.Inv) (hs : s.seq.transfers = false) : s.outstanding = none := by
  by_contra hne
  have := h.transfer hne
  simp [hs] at this

/-- Which byte goes out, and where that leads (R191). -/
theorem sent_cases {s : State} {b : Byte} {q : Seq} (hb : s.btTx = some b) (hq : s.afterSend = some q) :
    (s.seq = .pCmd ∧ b = opcRDSR ∧ q = .pSta) ∨ (s.seq = .wCmd ∧ b = opcWREN ∧ q = .wDes) ∨
      (s.seq = .cOp ∧ s.op = codeEraseAll ∧ b = opcBE ∧ q = .cDes) ∨
      (s.seq = .cOp ∧ s.op ≠ codeEraseAll ∧ opcodeOf s.op = some b ∧ q = .cA2) ∨
      (s.seq = .cA2 ∧ b = addrByte2 s.curAddr ∧ q = .cA1) ∨ (s.seq = .cA1 ∧ b = addrByte1 s.curAddr ∧ q = .cA0) ∨
      (s.seq = .cA0 ∧ b = addrByte0 s.curAddr ∧ afterHeader s = some q) := by
  have hs := State.afterSend_seq hq
  simp only [List.mem_cons, List.not_mem_nil, or_false] at hs
  rcases hs with hs | hs | hs | hs | hs | hs <;>
    simp only [State.btTx, State.afterSend, hs, Option.some.injEq] at hb hq <;> simp only [hs, reduceCtorEq, false_and, true_and,
      false_or, or_false]
  case inr.inr.inl =>
    by_cases ho : s.op = codeEraseAll
    · simp only [ho, opcodeOf, codeRead, codeWrite, codeEraseSector, codeEraseAll] at hb hq ⊢
      simp at hb hq ⊢
      exact ⟨hb.symm, hq.symm⟩
    · simp only [ho, if_false] at hq
      simp [ho, hb, hq]
  case inr.inr.inr.inr.inr => exact ⟨hb.symm, hq⟩
  all_goals exact ⟨hb.symm, hq.symm⟩

/-- Where the header leads, by the operation (R191). -/
theorem afterHeader_cases {s : State} {q : Seq} (h : afterHeader s = some q) :
    (s.op = codeEraseSector ∧ q = .cDes) ∨ (s.op = codeRead ∧ s.remaining = 0#24 ∧ q = .cDes) ∨
      (s.op = codeRead ∧ s.remaining ≠ 0#24 ∧ q = .cRd) ∨ (s.op = codeWrite ∧ s.chunk = 0#9 ∧ q = .cDes) ∨
      (s.op = codeWrite ∧ s.chunk ≠ 0#9 ∧ q = .cWr) := by
  unfold afterHeader at h
  repeat' split at h
  all_goals cases h
  all_goals simp_all

/-- From the invariant, the frame to be closed is the complete one of `State.Closes`, and executing it leaves `sr_shadow` as it
is. -/
theorem State.Inv.exec_closing {s : State} (h : s.Inv) (hs : s.seq = .pDes ∨ s.seq = .wDes ∨ s.seq = .cDes) :
    ∃ i, decode (.frame s.sent) = .ok i ∧ s.Closes i ∧
      exec i s = .next (closed s (s.react (s.chip.reaction s.params i))) := by
  obtain ⟨i, hd, hi⟩ := h.closes hs
  refine ⟨i, hd, hi, (exec_frame (decode_frame_isFrame hd) s).trans ?_⟩
  have hshadow : (if i = .rdsr then s.latchStatus.srShadow else s.srShadow) = s.srShadow := by
    split
    · subst i
      have hf := h.frame
      simp only [State.FrameOk, show s.seq = .pDes from hi] at hf
      rw [State.latchStatus_of_frame hf]
    · rfl
  rw [hshadow]

/-- What a closing row executes, and that the sequencer goes on from there. -/
theorem State.Inv.close_row {s t : State} {c : Chip} {st : Byte} (h : s.Inv)
    (hs : s.seq = .pDes ∨ s.seq = .wDes ∨ s.seq = .cDes)
    (hx : ∀ i, decode (.frame s.sent) = .ok i → exec i s = .next (closed { s with srShadow := st } c))
    (ht : afterInstr (closed { s with srShadow := st } c) = .next t) :
    ∃ i, i.isFrame = true ∧ s.Closes i ∧ exec i s = .next (closed s (s.react (s.chip.reaction s.params i))) ∧
      afterInstr (closed s (s.react (s.chip.reaction s.params i))) = .next t := by
  obtain ⟨i, hd, hi, he⟩ := h.exec_closing hs
  refine ⟨i, decode_frame_isFrame hd, hi, he, ?_⟩
  rw [← Host.Outcome.next.inj (he.symm.trans (hx i hd))] at ht
  exact ht

/-- The step of a closing state: the frame is executed and the sequencer goes on. -/
theorem State.Inv.close_step {s t : State} (h : s.Inv) (hr : s.rst = false)
    (hs : s.seq = .pDes ∨ s.seq = .wDes ∨ s.seq = .cDes) (ht : step s = .next t) :
    ∃ i, s.Closes i ∧ afterInstr (closed s.tick (s.tick.react (s.tick.chip.reaction s.params i))) = .next t := by
  obtain ⟨i, hd, hi, he⟩ := h.tick.exec_closing hs
  rw [step_close hr hs hd, he, andThen_next] at ht
  exact ⟨i, hi, ht⟩

/-- Where a closing row leads (R131, R145, R170, R191, R246). -/
theorem afterInstr_cases {s t : State} (h : afterInstr s = .next t) (hs : s.seq = .pDes ∨ s.seq = .wDes ∨ s.seq = .cDes) :
    (s.seq = .pDes ∧ s.wipSeen = true ∧ s.params.pollLimit = some s.pollCnt ∧ t = s.raisePollTimeout) ∨
      (s.seq = .pDes ∧ s.wipSeen = true ∧ s.params.pollLimit ≠ some s.pollCnt ∧ t = s.goTo .pSel) ∨
      (s.seq = .pDes ∧ s.wipSeen = false ∧ s.op = codeWait ∧ t = s.goTo .fin) ∨
      (s.seq = .pDes ∧ s.wipSeen = false ∧ s.op = codeRead ∧ t = s.goTo .cSel) ∨
      (s.seq = .pDes ∧ s.wipSeen = false ∧ s.op ≠ codeWait ∧ s.op ≠ codeRead ∧ s.op.toNat ≤ 5 ∧ t = s.goTo .wSel) ∨
      (s.seq = .wDes ∧ s.op = codeEnableWrite ∧ t = s.loadChunk.goTo .fin) ∨
      (s.seq = .wDes ∧ s.op ≠ codeEnableWrite ∧ t = s.loadChunk.goTo .cSel) ∨
      (s.seq = .cDes ∧ s.op = codeWrite ∧ s.remaining ≠ 0#24 ∧ t = s.enterPoll) ∨
      (s.seq = .cDes ∧ ¬ (s.op = codeWrite ∧ s.remaining ≠ 0#24) ∧ t = s.goTo .fin) := by
  rcases hs with hs | hs | hs <;> simp only [afterInstr, hs] at h <;>
    simp only [hs, reduceCtorEq, false_and, true_and, false_or, or_false]
  · exact afterPDes_cases h
  · cases h
    by_cases ho : s.op = codeEnableWrite <;> simp [afterWDes, ho]
  · cases h
    exact afterCDes_cases s

/-! ## Every row keeps the invariant, field by field -/

theorem Row.wf {s t : State} (h : s.Inv) (hrow : Row s t) : Mem.wf t.params.capacity t.chip.mem = true := by
  cases hrow with
  | accept => rw [State.leaveIdle_eq]; exact h.memory
  | dataHeld d v hl hs hv | dataSent d v hl hs hv => rcases hv with ⟨_, rfl⟩ | ⟨_, _, _, rfl⟩ <;> exact h.memory
  | close c st t hs hst hx ht =>
    obtain ⟨i, hi, _, he, ht⟩ := h.close_row hs hx ht
    rw [afterInstr_eq ht]
    exact (wf_exec_frame hi h.memory he :)
  | silent | select | held | sent | status | dataRead | waits | done => exact h.memory

/-- `bt_select` is the function of `seq` that R193 gives. -/
theorem Row.select_eq {s t : State} (h : s.Inv) (hrow : Row s t) : t.btSelect = t.seq.selected := by
  have hsel := h.select
  cases hrow with
  | silent | waits | held => exact hsel
  | accept w rest hs =>
    rw [hs] at hsel
    rcases leaveIdle_cases (State.load { s with requests := rest } (reqCode w) (reqAddr w) (reqLen w)) with
      ⟨_, _, _, h⟩ | ⟨_, h⟩ | ⟨_, _, h⟩ <;> rw [h] <;> exact hsel
  | select q hs =>
    simp only [List.mem_cons, Prod.mk.injEq, List.not_mem_nil, or_false] at hs
    rcases hs with ⟨_, rfl⟩ | ⟨_, rfl⟩ | ⟨_, rfl⟩ <;> rfl
  | sent b q hl hb hq =>
    rcases sent_cases hb hq with
      ⟨hs, _, rfl⟩ | ⟨hs, _, rfl⟩ | ⟨hs, _, _, rfl⟩ | ⟨hs, _, _, rfl⟩ | ⟨hs, _, rfl⟩ | ⟨hs, _, rfl⟩ | ⟨hs, _, hq⟩
    case inr.inr.inr.inr.inr.inr =>
      rw [hs] at hsel
      rcases afterHeader_cases hq with ⟨_, rfl⟩ | ⟨_, _, rfl⟩ | ⟨_, _, rfl⟩ | ⟨_, _, rfl⟩ | ⟨_, _, rfl⟩ <;> exact hsel
    all_goals rw [hs] at hsel; exact hsel
  | status hl hs => rw [hs] at hsel; exact hsel
  | dataRead hl hs =>
    rw [hs] at hsel
    simp only [State.dataRead, State.goTo_btSelect, State.countByte_btSelect, State.push_btSelect, State.exchange_btSelect, hsel,
      State.goTo_seq]
    split <;> rfl
  | dataHeld d v hl hs hv => rcases hv with ⟨_, rfl⟩ | ⟨_, _, _, rfl⟩ <;> exact hsel
  | dataSent d v hl hs hv =>
    have hv' : v.btSelect = true := by rcases hv with ⟨_, rfl⟩ | ⟨_, _, _, rfl⟩ <;> exact hsel.trans (by rw [hs]; rfl)
    simp only [State.dataSent, State.goTo_btSelect, State.countChunk_btSelect, State.countByte_btSelect,
      State.exchange_btSelect, hv', State.goTo_seq]
    split <;> rfl
  | done hs => rw [hs] at hsel; exact hsel
  | close c st t hs hst hx ht =>
    rcases afterInstr_cases ht hs with ⟨_, _, _, rfl⟩ | ⟨_, _, _, rfl⟩ | ⟨_, _, _, rfl⟩ | ⟨_, _, _, rfl⟩ |
      ⟨_, _, _, _, _, rfl⟩ | ⟨_, _, rfl⟩ | ⟨_, _, rfl⟩ | ⟨_, _, _, rfl⟩ | ⟨_, _, rfl⟩ <;> simp [closed, Seq.selected]

end Sys2Proof.Machine
end

section

namespace Sys2Proof.Machine

open Sys2Proof.Claims

/-- A state with a byte on `bt_tx` transfers it (R196). -/
theorem State.transfers_of_btTx {s : State} {b : Byte} (h : s.btTx = some b) : s.seq.transfers = true := by
  cases hs : s.seq <;> simp only [State.btTx, hs, reduceCtorEq] at h <;> rfl

theorem Row.transfer {s t : State} (h : s.Inv) (hrow : Row s t) : t.outstanding ≠ none → t.seq.transfers = true := by
  cases hrow with
  | silent | waits => exact h.transfer
  | accept w rest hs =>
    rw [State.leaveIdle_eq]
    exact fun hne => absurd (h.outstanding_none (by rw [hs]; rfl)) hne
  | select q hs =>
    have ho : s.outstanding = none := by
      simp only [List.mem_cons, Prod.mk.injEq, List.not_mem_nil, or_false] at hs
      rcases hs with ⟨hs, _⟩ | ⟨hs, _⟩ | ⟨hs, _⟩ <;> exact h.outstanding_none (by rw [hs]; rfl)
    exact fun hne => absurd ho hne
  | held b hl hs hb => exact fun _ => (State.transfers_of_btTx hb :)
  | sent | status | dataRead => exact fun hne => absurd rfl hne
  | dataHeld d v hl hs hv => rcases hv with ⟨_, rfl⟩ | ⟨_, _, _, rfl⟩ <;> exact fun _ => (congrArg Seq.transfers hs :)
  | dataSent => exact fun hne => absurd rfl hne
  | done hs => exact fun hne => absurd (h.outstanding_none (by rw [hs]; rfl)) hne
  | close c st t hs hst hx ht =>
    have ho : s.outstanding = none := by rcases hs with hs | hs | hs <;> exact h.outstanding_none (by rw [hs]; rfl)
    rw [afterInstr_eq ht]
    exact fun hne => absurd ho hne

theorem Row.opOk {s t : State} (h : s.Inv) (hrow : Row s t) : t.OpOk := by
  have hop := h.op
  cases hrow with
  | silent | waits | held => exact hop
  | accept w rest hs =>
    rcases leaveIdle_cases (State.load { s with requests := rest } (reqCode w) (reqAddr w) (reqLen w)) with
      ⟨_, _, _, h⟩ | ⟨_, h⟩ | ⟨hc, _, h⟩ <;> rw [h]
    · trivial
    · trivial
    · exact hc
  | select q hs =>
    simp only [List.mem_cons, Prod.mk.injEq, List.not_mem_nil, or_false] at hs
    rcases hs with ⟨hs, rfl⟩ | ⟨hs, rfl⟩ | ⟨hs, rfl⟩ <;> simp only [State.OpOk, hs] at hop <;> exact hop
  | sent b q hl hb hq =>
    rcases sent_cases hb hq with
      ⟨hs, _, rfl⟩ | ⟨hs, _, rfl⟩ | ⟨hs, _, _, rfl⟩ | ⟨hs, ho, _, rfl⟩ | ⟨hs, _, rfl⟩ | ⟨hs, _, rfl⟩ | ⟨hs, _, hq⟩ <;>
      simp only [State.OpOk, hs] at hop
    case inr.inr.inr.inl =>
      have hne : s.op.toNat ≠ 3 := fun h3 => ho (BitVec.eq_of_toNat_eq h3)
      exact Nat.le_of_lt_succ (Nat.lt_of_le_of_ne hop hne)
    case inr.inr.inr.inr.inr.inr =>
      rcases afterHeader_cases hq with ⟨_, rfl⟩ | ⟨_, _, rfl⟩ | ⟨ho, _, rfl⟩ | ⟨_, _, rfl⟩ | ⟨ho, _, rfl⟩
      case inr.inr.inl | inr.inr.inr.inr => exact ho
      all_goals exact Nat.le_succ_of_le hop
    all_goals exact hop
  | status hl hs => simp only [State.OpOk, hs] at hop; exact hop
  | dataRead hl hs =>
    simp only [State.OpOk, hs] at hop
    unfold State.dataRead
    split
    · show s.op.toNat ≤ 3
      rw [hop]; decide
    · exact hop
  | dataHeld d v hl hs hv => rcases hv with ⟨_, rfl⟩ | ⟨_, _, _, rfl⟩ <;> exact hop
  | dataSent d v hl hs hv =>
    simp only [State.OpOk, hs] at hop
    have hv' : v.op = codeWrite := by rcases hv with ⟨_, rfl⟩ | ⟨_, _, _, rfl⟩ <;> exact hop
    unfold State.dataSent
    split
    · show v.op.toNat ≤ 3
      rw [hv']; decide
    · exact hv'
  | done => trivial
  | close c st t hs hst hx ht =>
    rcases afterInstr_cases ht hs with ⟨_, _, _, rfl⟩ | ⟨hs, _, _, rfl⟩ | ⟨_, _, _, rfl⟩ | ⟨_, _, ho, rfl⟩ |
      ⟨hs, _, h4, h0, h5, rfl⟩ | ⟨_, _, rfl⟩ | ⟨hs, ho, rfl⟩ | ⟨_, ho, _, rfl⟩ | ⟨_, _, rfl⟩
    · trivial
    · have hs' : s.seq = .pDes := hs
      simp only [State.OpOk, hs'] at hop
      exact hop
    · trivial
    · show s.op.toNat ≤ 3
      rw [show s.op = codeRead from ho]; decide
    · exact ⟨h0, h4, h5⟩
    · trivial
    · have hs' : s.seq = .wDes := hs
      simp only [State.OpOk, hs'] at hop
      show (closed { s with srShadow := st } c).loadChunk.op.toNat ≤ 3
      rw [State.loadChunk_op]
      show s.op.toNat ≤ 3
      have ho' : s.op ≠ codeEnableWrite := ho
      obtain ⟨_, h4, h5⟩ := hop
      revert h4 h5 ho'
      generalize s.op = c
      revert c
      decide
    · show s.op.toNat ≤ 5
      rw [show s.op = codeWrite from ho]; decide
    · trivial

/-- Without a limit the registers of the bounded variant stay at 0 (R246). -/
theorem Row.poll {s t : State} (h : s.Inv) (hrow : Row s t) :
    t.params.pollLimit = none → t.pollCnt = 0 ∧ t.timeoutErr = false := by
  have hpoll := h.poll
  cases hrow with
  | accept =>
    rw [State.leaveIdle_eq]
    refine fun hn => ⟨?_, (hpoll hn).2⟩
    show (if _ then _ else _) = 0
    split
    · rfl
    · exact (hpoll hn).1
  | status hl hs =>
    refine fun hn => ⟨?_, (hpoll hn).2⟩
    have hn' : s.params.pollLimit = none := hn
    simp [State.statusRead, hn', hpoll hn']
  | dataHeld d v hl hs hv | dataSent d v hl hs hv => rcases hv with ⟨_, rfl⟩ | ⟨_, _, _, rfl⟩ <;> exact hpoll
  | close c st t hs hst hx ht =>
    rcases afterInstr_cases ht hs with ⟨_, _, hlim, rfl⟩ | ⟨_, _, _, rfl⟩ | ⟨_, _, _, rfl⟩ | ⟨_, _, _, rfl⟩ |
      ⟨_, _, _, _, _, rfl⟩ | ⟨_, _, rfl⟩ | ⟨_, _, rfl⟩ | ⟨_, _, _, rfl⟩ | ⟨_, _, rfl⟩
    · exact fun hn => by cases hn.symm.trans hlim
    case inr.inr.inr.inr.inr.inr.inr.inl => exact fun hn => ⟨rfl, (hpoll hn).2⟩
    case inr.inr.inr.inr.inr.inl | inr.inr.inr.inr.inr.inr.inl => rw [State.loadChunk_eq]; exact hpoll
    all_goals exact hpoll
  | silent | select | held | sent | dataRead | waits | done => exact hpoll

/-- Past the poll the last status byte had bit 0 = 0 (R199 (e)). -/
theorem Row.status_idle {s t : State} (h : s.Inv) (hrow : Row s t) :
    t.seq.enabling = true ∨ t.seq.commanding = true → t.wipSeen = false := by
  have hst := h.status
  cases hrow with
  | silent | waits | held => exact hst
  | accept w rest hs =>
    rcases leaveIdle_cases (State.load { s with requests := rest } (reqCode w) (reqAddr w) (reqLen w)) with
      ⟨_, _, _, h⟩ | ⟨_, h⟩ | ⟨_, _, h⟩ <;> rw [h] <;> simp [Seq.enabling, Seq.commanding]
  | select q hs =>
    simp only [List.mem_cons, Prod.mk.injEq, List.not_mem_nil, or_false] at hs
    rcases hs with ⟨hs, rfl⟩ | ⟨hs, rfl⟩ | ⟨hs, rfl⟩ <;> rw [hs] at hst
    · simp [Seq.enabling, Seq.commanding]
    · exact hst
    · exact hst
  | sent b q hl hb hq =>
    rcases sent_cases hb hq with
      ⟨hs, _, rfl⟩ | ⟨hs, _, rfl⟩ | ⟨hs, _, _, rfl⟩ | ⟨hs, ho, _, rfl⟩ | ⟨hs, _, rfl⟩ | ⟨hs, _, rfl⟩ | ⟨hs, _, hq⟩ <;>
      rw [hs] at hst
    · simp [Seq.enabling, Seq.commanding]
    all_goals exact fun _ => hst (by decide)
  | status => simp [State.statusRead, Seq.enabling, Seq.commanding]
  | dataRead hl hs => rw [hs] at hst; exact fun _ => hst (by decide)
  | dataHeld d v hl hs hv | dataSent d v hl hs hv =>
    rw [hs] at hst
    rcases hv with ⟨_, rfl⟩ | ⟨_, _, _, rfl⟩ <;> exact fun _ => hst (by decide)
  | done => simp [Seq.enabling, Seq.commanding]
  | close c st t hs _ hx ht =>
    obtain ⟨i, _, _, _, ht⟩ := h.close_row hs hx ht
    rcases afterInstr_cases ht hs with ⟨_, _, _, rfl⟩ | ⟨_, _, _, rfl⟩ | ⟨_, _, _, rfl⟩ | ⟨_, hw, _, rfl⟩ |
      ⟨_, hw, _, _, _, rfl⟩ | ⟨_, _, rfl⟩ | ⟨hs, _, rfl⟩ | ⟨_, _, _, rfl⟩ | ⟨_, _, rfl⟩
    case inr.inr.inr.inl | inr.inr.inr.inr.inl => exact fun _ => hw
    case inr.inr.inr.inr.inr.inr.inl =>
      rw [show s.seq = .wDes from hs] at hst
      rw [State.loadChunk_eq]
      exact fun _ => hst (by decide)
    all_goals simp [Seq.enabling, Seq.commanding]

end Sys2Proof.Machine
end

section

namespace Sys2Proof.Machine

open Sys2Proof.Claims

/-! ## The counters (R199 (c), (d)) -/

theorem Len.ne_zero_iff {n : Len} : n ≠ 0#24 ↔ 1 ≤ n.toNat := by bv_omega

/-- A data byte that is not the last of its chunk keeps the rest of the chunk in the page (R163). -/
theorem pageOffset_succ {a : Addr} {n : Nat} (hn : 1 < n) (h : pageOffset a + n ≤ pageSize) :
    pageOffset (a + 1#24) + (n - 1) ≤ pageSize := by
  unfold pageOffset pageSize at h ⊢
  bv_omega

/-- What C_WR needs of its counters follows from the chunk as it was loaded (R161). -/
theorem chunk_bounds {a : Addr} {n : Len} {c : BitVec 9} (h : c.toNat = chunkSize a n) (hc : c ≠ 0#9) :
    1 ≤ c.toNat ∧ c.toNat ≤ n.toNat ∧ pageOffset a + c.toNat ≤ pageSize := by
  rw [h]
  refine ⟨?_, chunkSize_le_remaining a n, pageOffset_add_chunkSize_le a n⟩
  rw [← h]
  bv_omega

theorem Row.countOk {s t : State} (h : s.Inv) (hrow : Row s t) : t.CountOk := by
  have hcnt := h.count
  cases hrow with
  | silent | waits | held => exact hcnt
  | accept w rest hs =>
    rcases leaveIdle_cases (State.load { s with requests := rest } (reqCode w) (reqAddr w) (reqLen w)) with
      ⟨_, _, _, h⟩ | ⟨_, h⟩ | ⟨_, hw, h⟩ <;> rw [h]
    · trivial
    · trivial
    · exact hw
  | select q hs =>
    simp only [List.mem_cons, Prod.mk.injEq, List.not_mem_nil, or_false] at hs
    rcases hs with ⟨hs, rfl⟩ | ⟨hs, rfl⟩ | ⟨hs, rfl⟩ <;> simp only [State.CountOk, hs] at hcnt <;> exact hcnt
  | sent b q hl hb hq =>
    rcases sent_cases hb hq with
      ⟨hs, _, rfl⟩ | ⟨hs, _, rfl⟩ | ⟨hs, ho, _, rfl⟩ | ⟨hs, _, _, rfl⟩ | ⟨hs, _, rfl⟩ | ⟨hs, _, rfl⟩ | ⟨hs, _, hq⟩ <;>
      simp only [State.CountOk, hs] at hcnt
    case inr.inr.inl =>
      exact ⟨fun h0 => absurd (ho.symm.trans h0) (by decide), fun h1 => absurd (ho.symm.trans h1) (by decide)⟩
    case inr.inr.inr.inr.inr.inr =>
      rcases afterHeader_cases hq with ⟨ho, rfl⟩ | ⟨ho, hrem, rfl⟩ | ⟨_, hrem, rfl⟩ | ⟨ho, hc, rfl⟩ | ⟨ho, hc, rfl⟩
      · exact ⟨fun h0 => absurd (ho.symm.trans h0) (by decide), fun h1 => absurd (ho.symm.trans h1) (by decide)⟩
      · exact ⟨fun _ => hrem, fun h1 => absurd (ho.symm.trans h1) (by decide)⟩
      · exact hrem
      · exact ⟨fun h0 => absurd (ho.symm.trans h0) (by decide), fun _ => hc⟩
      · exact chunk_bounds (hcnt ho).2 hc
    all_goals exact hcnt
  | status hl hs => simp only [State.CountOk, hs] at hcnt; exact hcnt
  | dataRead hl hs =>
    have hop := h.op
    simp only [State.OpOk, hs] at hop
    unfold State.dataRead
    split
    · exact ⟨fun _ => ‹_›, fun h1 => absurd (hop.symm.trans h1) (by decide)⟩
    · exact ‹¬ _›
  | dataHeld d v hl hs hv => rcases hv with ⟨_, rfl⟩ | ⟨_, _, _, rfl⟩ <;> exact hcnt
  | dataSent d v hl hs hv =>
    have hop := h.op
    simp only [State.OpOk, hs] at hop
    simp only [State.CountOk, hs] at hcnt
    obtain ⟨hop', h1, hrem, hpage⟩ : v.op = codeWrite ∧ 1 ≤ v.chunk.toNat ∧ v.chunk.toNat ≤ v.remaining.toNat ∧
        pageOffset v.curAddr + v.chunk.toNat ≤ pageSize := by
      rcases hv with ⟨_, rfl⟩ | ⟨_, _, _, rfl⟩ <;> exact ⟨hop, hcnt⟩
    unfold State.dataSent
    split
    · exact ⟨fun h0 => absurd (hop'.symm.trans h0) (by decide), fun _ => ‹_›⟩
    · have hc : (v.chunk - 1#9).toNat = v.chunk.toNat - 1 := chunk_toNat_pred h1
      have hr : (v.remaining - 1#24).toNat = v.remaining.toNat - 1 := Len.toNat_pred (Len.ne_zero_iff.mpr (by omega))
      have h2 : 1 < v.chunk.toNat := by bv_omega
      show 1 ≤ (v.chunk - 1#9).toNat ∧ (v.chunk - 1#9).toNat ≤ (v.remaining - 1#24).toNat ∧
        pageOffset (v.curAddr + 1#24) + (v.chunk - 1#9).toNat ≤ pageSize
      rw [hc, hr]
      exact ⟨by omega, by omega, pageOffset_succ h2 hpage⟩
  | done => trivial
  | close c st t hs hst hx ht =>
    rcases afterInstr_cases ht hs with ⟨_, _, _, rfl⟩ | ⟨hs, _, _, rfl⟩ | ⟨_, _, _, rfl⟩ | ⟨_, _, ho, rfl⟩ |
      ⟨hs, _, _, _, _, rfl⟩ | ⟨_, _, rfl⟩ | ⟨hs, _, rfl⟩ | ⟨_, _, hrem, rfl⟩ | ⟨_, _, rfl⟩
    case inr.inl | inr.inr.inr.inr.inl =>
      simp only [State.CountOk, show s.seq = .pDes from hs] at hcnt
      exact hcnt
    case inr.inr.inr.inl => exact fun h1 => absurd ((show s.op = codeRead from ho).symm.trans h1) (by decide)
    case inr.inr.inr.inr.inr.inr.inl =>
      simp only [State.CountOk, show s.seq = .wDes from hs] at hcnt
      intro h1
      rw [State.goTo_op, State.loadChunk_op] at h1
      have h1' : s.op = codeWrite := h1
      refine ⟨by rw [State.loadChunk_eq]; exact hcnt h1', ?_⟩
      rw [State.goTo_chunk, State.loadChunk_chunk_toNat, State.goTo_curAddr, State.loadChunk_curAddr, State.goTo_remaining,
        State.loadChunk_remaining]
      exact if_pos h1'
    case inr.inr.inr.inr.inr.inr.inr.inl => exact fun _ => .inl hrem
    all_goals trivial

/-! ## The operand contract (R23, R56) -/

theorem Row.contractOk {s t : State} (h : s.Inv) (hrow : Row s t) : t.ContractOk := by
  have hcon := h.contract
  cases hrow with
  | silent | waits | held => exact hcon
  | accept w rest hs hq hc =>
    rcases leaveIdle_cases (State.load { s with requests := rest } (reqCode w) (reqAddr w) (reqLen w)) with
      ⟨_, _, _, h⟩ | ⟨_, h⟩ | ⟨_, _, h⟩ <;> rw [h]
    · exact fun _ _ hne => absurd rfl hne
    · exact fun _ _ hne => absurd rfl hne
    · intro hp _ _
      obtain ⟨_, hrange, haddr⟩ := hc hp
      simp only [rangeInContract, addrInContract, Bool.and_eq_true, decide_eq_true_eq] at hrange haddr
      exact ⟨fun ho => (hrange ho).2, fun ho _ => (hrange ho).1, haddr⟩
  | select q hs =>
    simp only [List.mem_cons, Prod.mk.injEq, List.not_mem_nil, or_false] at hs
    intro hp _ _
    rcases hs with ⟨hs, rfl⟩ | ⟨hs, rfl⟩ | ⟨hs, rfl⟩ <;>
      obtain ⟨h1, h2, h3⟩ := hcon hp (by simp [hs]) (by simp [hs]) <;>
      exact ⟨h1, fun ho _ => h2 ho (by simp [hs, Seq.polling, Seq.enabling]), h3⟩
  | sent b q hl hb hq =>
    have hs := State.afterSend_seq hq
    simp only [List.mem_cons, List.not_mem_nil, or_false] at hs
    intro hp _ _
    obtain ⟨h1, h2, h3⟩ := hcon hp (by rintro h; simp [h] at hs) (by rintro h; simp [h] at hs)
    exact ⟨h1, fun ho _ => h2 ho (by rcases hs with hs | hs | hs | hs | hs | hs <;> simp [hs, Seq.polling, Seq.enabling]), h3⟩
  | status hl hs =>
    intro hp _ _
    obtain ⟨h1, h2, h3⟩ := hcon hp (by simp [hs]) (by simp [hs])
    exact ⟨h1, fun ho _ => h2 ho (by simp [hs, Seq.polling]), h3⟩
  | dataRead hl hs =>
    have hop := h.op
    have hcnt := h.count
    simp only [State.OpOk, hs] at hop
    simp only [State.CountOk, hs] at hcnt
    intro hp _ _
    obtain ⟨h1, -, -⟩ := hcon hp (by simp [hs]) (by simp [hs])
    have hin := h1 (.inl hop)
    have hr := Len.toNat_pred hcnt
    have hr1 := Len.ne_zero_iff.mp hcnt
    refine ⟨fun _ => ?_, fun _ hseq => ?_, fun h2 => absurd (hop.symm.trans h2) (by decide)⟩
    · show (s.curAddr + 1#24).toNat + (s.remaining - 1#24).toNat ≤ s.params.capacity
      rw [hr]
      bv_omega
    · exfalso
      revert hseq
      unfold State.dataRead
      split <;> simp [Seq.polling, Seq.enabling]
  | dataHeld d v hl hs hv => rcases hv with ⟨_, rfl⟩ | ⟨_, _, _, rfl⟩ <;> exact hcon
  | dataSent d v hl hs hv =>
    have hop := h.op
    have hcnt := h.count
    simp only [State.OpOk, hs] at hop
    simp only [State.CountOk, hs] at hcnt
    intro hp _ _
    have hp' : s.params.outOfContract = .refuse := by rcases hv with ⟨_, rfl⟩ | ⟨_, _, _, rfl⟩ <;> exact hp
    obtain ⟨h1, -, -⟩ := hcon hp' (by simp [hs]) (by simp [hs])
    have hin := h1 (.inr hop)
    have hv' : v.op = s.op ∧ v.curAddr = s.curAddr ∧ v.remaining = s.remaining ∧ v.params = s.params := by
      rcases hv with ⟨_, rfl⟩ | ⟨_, _, _, rfl⟩ <;> exact ⟨rfl, rfl, rfl, rfl⟩
    obtain ⟨ho, ha, hrem, hpar⟩ := hv'
    have hne : s.remaining ≠ 0#24 := Len.ne_zero_iff.mpr (by omega)
    have hr := Len.toNat_pred hne
    refine ⟨fun _ => ?_, fun _ hseq => ?_, fun h2 => absurd ((ho.trans hop).symm.trans h2) (by decide)⟩
    · show (v.curAddr + 1#24).toNat + (v.remaining - 1#24).toNat ≤ v.params.capacity
      rw [ha, hrem, hpar, hr]
      bv_omega
    · exfalso
      revert hseq
      unfold State.dataSent
      split <;> simp [Seq.polling, Seq.enabling]
  | done => exact fun _ hne => absurd rfl hne
  | close c st t hs hst hx ht =>
    rcases afterInstr_cases ht hs with ⟨_, _, _, rfl⟩ | ⟨hs, _, _, rfl⟩ | ⟨_, _, _, rfl⟩ | ⟨hs, _, _, rfl⟩ |
      ⟨hs, _, _, _, _, rfl⟩ | ⟨_, _, rfl⟩ | ⟨hs, _, rfl⟩ | ⟨hs, ho, hrem, rfl⟩ | ⟨_, _, rfl⟩
    case inr.inl | inr.inr.inr.inl | inr.inr.inr.inr.inl =>
      intro hp _ _
      have hs' : s.seq = .pDes := hs
      obtain ⟨h1, h2, h3⟩ := hcon hp (by simp [hs']) (by simp [hs'])
      exact ⟨h1, fun ho _ => h2 ho (by simp [hs', Seq.polling]), h3⟩
    case inr.inr.inr.inr.inr.inr.inl =>
      rw [State.loadChunk_eq]
      intro hp _ _
      have hs' : s.seq = .wDes := hs
      obtain ⟨h1, h2, h3⟩ := hcon hp (by simp [hs']) (by simp [hs'])
      exact ⟨h1, fun ho _ => h2 ho (by simp [hs', Seq.enabling]), h3⟩
    case inr.inr.inr.inr.inr.inr.inr.inl =>
      intro hp _ _
      have hs' : s.seq = .cDes := hs
      have ho' : s.op = codeWrite := ho
      obtain ⟨h1, -, h3⟩ := hcon hp (by simp [hs']) (by simp [hs'])
      have hin := h1 (.inr ho')
      have hr1 : 1 ≤ s.remaining.toNat := Len.ne_zero_iff.mp hrem
      exact ⟨h1, fun _ _ => Nat.lt_of_lt_of_le (Nat.lt_add_of_pos_right hr1) hin, h3⟩
    all_goals exact fun _ _ hne => absurd rfl hne

end Sys2Proof.Machine
end

section

namespace Sys2Proof.Machine

open Sys2Proof.Claims

/-! ## The open frame (R82, R110) -/

/-- What the header of a request in contract starts from: its address and length are those of the registers (R56). -/
theorem State.Inv.range_of_cA0 {s : State} (h : s.Inv) (hs : s.seq = .cA0) (ho : s.op = codeRead ∨ s.op = codeWrite) :
    s.params.outOfContract = .refuse →
      s.curAddr.toNat < s.params.capacity ∧ s.curAddr.toNat + s.remaining.toNat ≤ s.params.capacity := by
  intro hp
  obtain ⟨h1, h2, -⟩ := h.contract hp (by simp [hs]) (by simp [hs])
  exact ⟨h2 ho (by simp [hs]), h1 ho⟩

/-- After the header, the frame of the request with no data yet (R83, R113, R114, R115). -/
theorem frameOk_of_header {s : State} {q : Seq} (h : s.Inv) (hs : s.seq = .cA0) (hq : afterHeader s = some q) :
    ((s.exchange (addrByte0 s.curAddr) none).goTo q).FrameOk := by
  have hf := h.frame
  have hcnt := h.count
  simp only [State.FrameOk, hs] at hf
  simp only [State.CountOk, hs] at hcnt
  obtain ⟨opc, hopc, hsent⟩ := hf
  have hsent' : ((s.exchange (addrByte0 s.curAddr) none).goTo q).sent = header opc s.curAddr := by
    have := State.sent_exchange s (addrByte0 s.curAddr) none
    rw [hsent] at this
    exact this
  have hread : s.op = codeRead → ((s.exchange (addrByte0 s.curAddr) none).goTo q).ReadFrame s.curAddr 0 := by
    intro ho
    have hb : opcREAD = opc := by rw [ho] at hopc; exact Option.some.inj hopc
    exact ⟨by rw [hsent', hb]; rfl, by simp, h.range_of_cA0 hs (.inl ho)⟩
  have hwrite : s.op = codeWrite → ((s.exchange (addrByte0 s.curAddr) none).goTo q).ProgramFrame s.curAddr [] := by
    intro ho
    have hb : opcPP = opc := by rw [ho] at hopc; exact Option.some.inj hopc
    refine ⟨by rw [hsent', hb]; simp, by simp, ?_, h.range_of_cA0 hs (.inr ho)⟩
    have hc := (hcnt ho).2
    simpa [hc] using pageOffset_add_chunkSize_le s.curAddr s.remaining
  rcases afterHeader_cases hq with ⟨ho, rfl⟩ | ⟨ho, _, rfl⟩ | ⟨ho, _, rfl⟩ | ⟨ho, hc, rfl⟩ | ⟨ho, _, rfl⟩
  · have hb : opcSE = opc := by rw [ho] at hopc; exact Option.some.inj hopc
    exact ⟨fun h => absurd (ho.symm.trans h) (by decide), fun h => absurd (ho.symm.trans h) (by decide),
      fun _ => by rw [hsent', hb]; rfl, fun h => absurd (ho.symm.trans h) (by decide)⟩
  · exact ⟨fun _ => ⟨_, _, hread ho⟩, fun h => absurd (ho.symm.trans h) (by decide),
      fun h => absurd (ho.symm.trans h) (by decide), fun h => absurd (ho.symm.trans h) (by decide)⟩
  · exact ⟨_, _, hread ho⟩
  · have hempty : s.params.zeroLenWriteEmitsFrame = true := by
      obtain ⟨hdata, hsize⟩ := hcnt ho
      refine hdata.resolve_left fun hne => ?_
      have := chunkSize_pos (a := s.curAddr) hne
      simp [hc] at hsize
      omega
    exact ⟨fun h => absurd (ho.symm.trans h) (by decide), fun _ => ⟨_, _, hwrite ho, .inr hempty⟩,
      fun h => absurd (ho.symm.trans h) (by decide), fun h => absurd (ho.symm.trans h) (by decide)⟩
  · exact ⟨_, _, hwrite ho⟩

/-- The next byte of a READ extends its frame (R151, R152). -/
theorem State.ReadFrame.read {s : State} {a : Addr} {k : Nat} (h : s.ReadFrame a k) (hrem : s.remaining ≠ 0#24) (b : Byte) :
    (s.dataRead b).ReadFrame a (k + 1) := by
  obtain ⟨hsent, hcur, hc⟩ := h
  have hr := Len.toNat_pred hrem
  have h1 := Len.ne_zero_iff.mp hrem
  refine ⟨?_, ?_, fun hp => ?_⟩
  · have : (s.dataRead b).sent = s.sent ++ [s.params.dummyTx] := State.sent_exchange s _ _
    rw [this, hsent, List.append_assoc, List.replicate_succ']
    rfl
  · show s.curAddr + 1#24 = _
    rw [hcur]
    bv_omega
  · obtain ⟨ha, hin⟩ := hc hp
    refine ⟨ha, ?_⟩
    show a.toNat + (k + 1) + (s.remaining - 1#24).toNat ≤ s.params.capacity
    omega

/-- The next byte of a page program extends its frame (R163). -/
theorem State.ProgramFrame.send {s : State} {a : Addr} {d : List Byte} (h : s.ProgramFrame a d) (hc : 1 ≤ s.chunk.toNat)
    (hrem : s.remaining ≠ 0#24) (b : Byte) : (s.dataSent b).ProgramFrame a (d ++ [b]) := by
  obtain ⟨hsent, hcur, hpage, hcon⟩ := h
  have hr := Len.toNat_pred hrem
  have h1 := Len.ne_zero_iff.mp hrem
  have hcp := chunk_toNat_pred hc
  refine ⟨?_, ?_, ?_, fun hp => ?_⟩
  · have : (s.dataSent b).sent = s.sent ++ [b] := State.sent_exchange s _ _
    rw [this, hsent, List.append_assoc]
  · show s.curAddr + 1#24 = _
    rw [hcur, List.length_append, List.length_singleton]
    bv_omega
  · show pageOffset a + (d ++ [b]).length + (s.chunk - 1#9).toNat ≤ pageSize
    rw [hcp, List.length_append, List.length_singleton]
    omega
  · obtain ⟨ha, hin⟩ := hcon hp
    refine ⟨ha, ?_⟩
    show a.toNat + (d ++ [b]).length + (s.remaining - 1#24).toNat ≤ s.params.capacity
    rw [List.length_append, List.length_singleton]
    omega

theorem Row.frameOk {s t : State} (h : s.Inv) (hrow : Row s t) : t.FrameOk := by
  have hf := h.frame
  cases hrow with
  | silent | waits | held => exact hf
  | accept w rest hs =>
    simp only [State.FrameOk, hs] at hf
    rcases leaveIdle_cases (State.load { s with requests := rest } (reqCode w) (reqAddr w) (reqLen w)) with
      ⟨_, _, _, h⟩ | ⟨_, h⟩ | ⟨_, _, h⟩ <;> rw [h] <;> exact hf
  | select q hs =>
    simp only [List.mem_cons, Prod.mk.injEq, List.not_mem_nil, or_false] at hs
    rcases hs with ⟨_, rfl⟩ | ⟨_, rfl⟩ | ⟨_, rfl⟩ <;> rfl
  | sent b q hl hb hq =>
    rcases sent_cases hb hq with ⟨hs, rfl, rfl⟩ | ⟨hs, rfl, rfl⟩ | ⟨hs, ho, rfl, rfl⟩ | ⟨hs, _, ho, rfl⟩ | ⟨hs, rfl, rfl⟩ |
      ⟨hs, rfl, rfl⟩ | ⟨hs, rfl, hq⟩
    case inr.inr.inr.inr.inr.inr => exact frameOk_of_header h hs hq
    all_goals simp only [State.FrameOk, hs] at hf
    · simp [State.FrameOk, hf]
    · simp [State.FrameOk, State.sent, hf]
    · simp [State.FrameOk, State.sent, hf, ho, codeRead, codeWrite, codeEraseSector, codeEraseAll]
    · exact ⟨b, ho, by simp [State.sent, hf]⟩
    · obtain ⟨opc, ho, hsent⟩ := hf
      exact ⟨opc, ho, (State.sent_exchange s _ _).trans (by rw [hsent]; rfl)⟩
    · obtain ⟨opc, ho, hsent⟩ := hf
      exact ⟨opc, ho, (State.sent_exchange s _ _).trans (by rw [hsent]; rfl)⟩
  | status hl hs => simp only [State.FrameOk, hs] at hf; simp [State.statusRead, State.FrameOk, hf]
  | dataRead hl hs =>
    have hop := h.op
    have hcnt := h.count
    simp only [State.FrameOk, hs] at hf
    simp only [State.OpOk, hs] at hop
    simp only [State.CountOk, hs] at hcnt
    obtain ⟨a, k, hf⟩ := hf
    have hnext := hf.read hcnt s.received
    have hcmd : (s.dataRead s.received).op = codeRead := hop
    have hseq : (s.dataRead s.received).seq = .cDes ∨ (s.dataRead s.received).seq = .cRd := by
      unfold State.dataRead; split <;> simp
    rcases hseq with hq | hq <;> simp only [State.FrameOk, hq]
    · exact ⟨fun _ => ⟨_, _, hnext⟩, fun h => absurd (hcmd.symm.trans h) (by decide),
        fun h => absurd (hcmd.symm.trans h) (by decide), fun h => absurd (hcmd.symm.trans h) (by decide)⟩
    · exact ⟨_, _, hnext⟩
  | dataHeld d v hl hs hv =>
    rcases hv with ⟨_, rfl⟩ | ⟨_, _, _, rfl⟩ <;> exact hf
  | dataSent b v hl hs hv =>
    have hop := h.op
    have hcnt := h.count
    simp only [State.FrameOk, hs] at hf
    simp only [State.OpOk, hs] at hop
    simp only [State.CountOk, hs] at hcnt
    obtain ⟨a, d, hf⟩ := hf
    obtain ⟨h1, hrem, _⟩ := hcnt
    obtain ⟨hfv, hcmd, h1, hrem⟩ : v.ProgramFrame a d ∧ v.op = codeWrite ∧ 1 ≤ v.chunk.toNat ∧ v.remaining ≠ 0#24 := by
      have hrem' : s.remaining ≠ 0#24 := Len.ne_zero_iff.mpr (by omega)
      rcases hv with ⟨_, rfl⟩ | ⟨_, _, _, rfl⟩ <;> exact ⟨hf, hop, h1, hrem'⟩
    have hnext := hfv.send h1 hrem b
    have hcmd : (v.dataSent b).op = codeWrite := hcmd
    have hseq : (v.dataSent b).seq = .cDes ∨ (v.dataSent b).seq = .cWr := by
      unfold State.dataSent; split <;> simp
    rcases hseq with hq | hq <;> simp only [State.FrameOk, hq]
    · exact ⟨fun h => absurd (hcmd.symm.trans h) (by decide), fun _ => ⟨_, _, hnext, .inl (by simp)⟩,
        fun h => absurd (hcmd.symm.trans h) (by decide), fun h => absurd (hcmd.symm.trans h) (by decide)⟩
    · exact ⟨_, _, hnext⟩
  | done hs => simp only [State.FrameOk, hs] at hf; exact hf
  | close c st t hs hst hx ht =>
    rcases afterInstr_cases ht hs with ⟨_, _, _, rfl⟩ | ⟨_, _, _, rfl⟩ | ⟨_, _, _, rfl⟩ | ⟨_, _, _, rfl⟩ |
      ⟨_, _, _, _, _, rfl⟩ | ⟨_, _, rfl⟩ | ⟨_, _, rfl⟩ | ⟨_, _, _, rfl⟩ | ⟨_, _, rfl⟩
    case inr.inr.inr.inr.inr.inl | inr.inr.inr.inr.inr.inr.inl => rw [State.loadChunk_eq]; rfl
    all_goals rfl

/-! ## The invariant -/

/-- Every row keeps the invariant. -/
theorem Row.inv {s t : State} (h : s.Inv) (hrow : Row s t) : t.Inv :=
  ⟨hrow.wf h, hrow.select_eq h, hrow.transfer h, hrow.opOk h, hrow.countOk h, hrow.frameOk h, hrow.status_idle h, hrow.poll h,
    hrow.contractOk h⟩

/-- So does a reset. -/
theorem State.Inv.resetBlock {s : State} (h : s.Inv) : s.resetBlock.Inv where
  memory := (State.wf_cutFrame h.memory :)
  select := rfl
  transfer := fun hne => absurd rfl hne
  op := trivial
  count := trivial
  frame := rfl
  status := by simp [Seq.enabling, Seq.commanding]
  poll := fun _ => ⟨rfl, rfl⟩
  contract := fun _ hne => absurd rfl hne

/-- Settles O39: a step is a reset or a row, and each field of the invariant is kept by both. -/
theorem stepKeepsTheInvariant : Obligations.StepKeepsTheInvariant := by
  intro s t h hstep
  rcases step_cases hstep with ⟨_, rfl⟩ | ⟨_, hrow⟩
  · exact h.tick.resetBlock
  · exact hrow.inv h.tick

/-- Settles O38: nothing is in progress after reset, and the array is empty. -/
theorem resetSatisfiesTheInvariant : Obligations.ResetSatisfiesTheInvariant := by
  refine ⟨⟨rfl, rfl, fun hne => absurd rfl hne, trivial, trivial, rfl, ?_, fun _ => ⟨rfl, rfl⟩, fun _ hne => absurd rfl hne⟩,
    fun _ => ⟨?_, ?_⟩⟩ <;> simp [State.reset, Seq.enabling, Seq.commanding]

end Sys2Proof.Machine
end

section

namespace Sys2Proof.Machine

open Sys2Proof.Claims

/-! ## The table has a row (R191, R240) -/

/-- A closing row leads on, if in P_DES the operation is one of the six. -/
theorem afterInstr_total {s : State} (h : s.seq = .pDes → s.op.toNat ≤ 5) : ∃ t, afterInstr s = .next t := by
  cases hs : s.seq
  case pDes =>
    simp only [afterInstr, hs]
    cases hw : s.wipSeen with
    | false => exact ⟨_, afterPDes_of_idle hw (h hs)⟩
    | true =>
      by_cases hlim : s.params.pollLimit = some s.pollCnt
      · exact ⟨_, afterPDes_of_limit hw hlim⟩
      · exact ⟨_, afterPDes_of_busy hw hlim⟩
  all_goals simp [afterInstr, hs]

theorem State.Inv.close_next {s : State} (h : s.Inv) (hr : s.rst = false)
    (hs : s.seq = .pDes ∨ s.seq = .wDes ∨ s.seq = .cDes) (hop : s.seq = .pDes → s.op.toNat ≤ 5) : ∃ t, step s = .next t := by
  obtain ⟨i, hd, _⟩ := h.closes hs
  rw [step_close hr hs hd, exec_frame (decode_frame_isFrame hd), andThen_next]
  exact afterInstr_total hop

/-- From a state that meets the invariant, a busy block takes a step. -/
theorem State.Inv.step_next {s : State} (h : s.Inv) (hr : s.rst = false) (hs : s.seq ≠ .idle) : ∃ t, step s = .next t := by
  have hop := h.op
  cases hq : s.seq <;> simp only [State.OpOk, hq] at hop
  case idle => exact absurd hq hs
  case pSel => exact ⟨_, step_pSel hr hq⟩
  case pCmd => exact ⟨_, step_pCmd hr hq⟩
  case pSta => exact ⟨_, step_pSta hr hq⟩
  case wSel => exact ⟨_, step_wSel hr hq⟩
  case wCmd => exact ⟨_, step_wCmd hr hq⟩
  case cSel => exact ⟨_, step_cSel hr hq⟩
  case cA2 => exact ⟨_, step_cA2 hr hq⟩
  case cA1 => exact ⟨_, step_cA1 hr hq⟩
  case cRd => exact ⟨_, step_cRd hr hq⟩
  case cWr => exact ⟨_, step_cWr hr hq⟩
  case fin => exact ⟨_, step_fin hr hq⟩
  case cOp =>
    have hopc : ∃ b, opcodeOf s.op = some b := by
      rcases code_le_three hop with ho | ho | ho | ho <;> rw [ho] <;> exact ⟨_, rfl⟩
    obtain ⟨b, hopc⟩ := hopc
    exact ⟨_, step_transferOut hr (by simpa only [State.btTx, hq] using hopc) (by simp only [State.afterSend, hq]; rfl)⟩
  case cA0 =>
    obtain ⟨_, hnext, _⟩ := header_of_op hop
    exact ⟨_, step_transferOut hr (by simp only [State.btTx, hq]; rfl) (by simpa only [State.afterSend, hq] using hnext)⟩
  case pDes => exact h.close_next hr (.inl hq) fun _ => hop
  case wDes => exact h.close_next hr (.inr (.inl hq)) fun hp => by cases hq.symm.trans hp
  case cDes => exact h.close_next hr (.inr (.inr hq)) fun hp => by cases hq.symm.trans hp

/-- Settles O41: a reset, an idle block and a busy one all answer something else than a fault. -/
theorem stepNeverFaults : Obligations.StepNeverFaults := by
  intro s r h hstep
  cases hr : s.rst with
  | true => rw [step_of_rst hr] at hstep; cases hstep
  | false =>
    by_cases hs : s.seq = .idle
    · rcases step_idle_outcome hr hs with ⟨t, ht⟩ | ⟨_, _, r', hr', _⟩
      · cases hstep.symm.trans ht
      · cases hstep.symm.trans hr'
    · obtain ⟨t, ht⟩ := h.step_next hr hs
      cases hstep.symm.trans ht

/-! ## Where the selecting states are entered from (R199) -/

/-- Only a closing row leads to W_SEL or C_SEL. -/
theorem Row.closes_of_seq {s t : State} (hrow : Row s t) (ht : t.seq = .wSel ∨ t.seq = .cSel) :
    s.seq = .pDes ∨ s.seq = .wDes ∨ s.seq = .cDes := by
  cases hrow with
  | close c st t hs => exact hs
  | silent hs | waits hs => simp [hs] at ht
  | accept w rest hs =>
    rcases leaveIdle_cases (State.load { s with requests := rest } (reqCode w) (reqAddr w) (reqLen w)) with
      ⟨_, _, _, h⟩ | ⟨_, h⟩ | ⟨_, _, h⟩ <;> rw [h] at ht <;> simp at ht
  | select q hs => rcases ht with rfl | rfl <;> simp at hs
  | held b hl hs hb =>
    have htr := State.transfers_of_btTx hb
    rcases ht with ht | ht <;> rw [show s.seq = _ from ht] at htr <;> cases htr
  | sent b q hl hb hq =>
    rcases sent_cases hb hq with ⟨_, _, rfl⟩ | ⟨_, _, rfl⟩ | ⟨_, _, _, rfl⟩ | ⟨_, _, _, rfl⟩ | ⟨_, _, rfl⟩ | ⟨_, _, rfl⟩ |
      ⟨_, _, hq⟩
    case inr.inr.inr.inr.inr.inr =>
      rcases afterHeader_cases hq with ⟨_, rfl⟩ | ⟨_, _, rfl⟩ | ⟨_, _, rfl⟩ | ⟨_, _, rfl⟩ | ⟨_, _, rfl⟩ <;> simp at ht
    all_goals simp at ht
  | status => simp [State.statusRead] at ht
  | dataRead => unfold State.dataRead at ht; split at ht <;> simp at ht
  | dataHeld d v hl hs hv => rcases hv with ⟨_, rfl⟩ | ⟨_, _, _, rfl⟩ <;> simp [hs] at ht
  | dataSent => unfold State.dataSent at ht; split at ht <;> simp at ht
  | done => simp at ht

/-- Settles O46: only a closing row leads there, that of P_DES by the status byte, that of W_DES to C_SEL. -/
theorem commandOnlyAfterAnIdlePoll : Obligations.CommandOnlyAfterAnIdlePoll := by
  intro s t h hstep
  have key : t.seq = .wSel ∨ t.seq = .cSel → (t.seq = .wSel ∧ s.seq = .pDes ∧ s.wipSeen = false) ∨
      (t.seq = .cSel ∧ (s.seq = .wDes ∨ (s.seq = .pDes ∧ s.wipSeen = false ∧ s.op = codeRead))) := by
    intro ht
    rcases step_cases hstep with ⟨_, rfl⟩ | ⟨hr, hrow⟩
    · simp at ht
    · have hs := hrow.closes_of_seq ht
      obtain ⟨i, _, hafter⟩ := h.close_step hr hs hstep
      rcases afterInstr_cases hafter hs with ⟨_, _, _, rfl⟩ | ⟨_, _, _, rfl⟩ | ⟨_, _, _, rfl⟩ | ⟨hq, hw, ho, rfl⟩ |
        ⟨hq, hw, _, _, _, rfl⟩ | ⟨_, _, rfl⟩ | ⟨hq, _, rfl⟩ | ⟨_, _, _, rfl⟩ | ⟨_, _, rfl⟩
      case inr.inr.inr.inr.inl => exact .inr ⟨rfl, .inr ⟨hq, hw, ho⟩⟩
      case inr.inr.inr.inr.inr.inl => exact .inl ⟨rfl, hq, hw⟩
      case inr.inr.inr.inr.inr.inr.inr.inl => exact .inr ⟨rfl, .inl hq⟩
      all_goals simp at ht
  refine ⟨fun ht => ?_, fun ht => ?_⟩
  · rcases key (.inl ht) with ⟨_, h⟩ | ⟨h, _⟩
    · exact h
    · cases ht.symm.trans h
  · rcases key (.inr ht) with ⟨h, _⟩ | ⟨_, h⟩
    · cases ht.symm.trans h
    · exact h

/-! ## The bus (R31, R61, R195) -/

/-- A state that transfers a byte has the chip selected (R193, R196). -/
theorem Seq.selected_of_transfers {q : Seq} (h : q.transfers = true) : q.selected = true := by
  cases q <;> simp_all [Seq.transfers, Seq.selected]

/-- What a row adds to the log: at most one bus event, in a state of the select line that fits it. -/
theorem Row.events {s t : State} (h : s.Inv) (hrow : Row s t) :
    ∃ ev, t.events = s.events ++ ev ∧ (ev.filter Event.isBus).length ≤ 1 ∧
      (Event.sel ∈ ev → s.btSelect = false ∧ t.btSelect = true) ∧
      (∀ tx rx, Event.xfer tx rx ∈ ev → s.btTx = some tx ∧ s.btSelect = true ∧ t.btSelect = true) ∧
      (Event.des ∈ ev → s.btSelect = true ∧ t.btSelect = false) := by
  have hsel := h.select
  have selected : s.seq.transfers = true → s.btSelect = true := fun ht => hsel.trans (Seq.selected_of_transfers ht)
  cases hrow with
  | silent | waits => exact ⟨[], by simp⟩
  | accept => rw [State.leaveIdle_eq]; exact ⟨[], by simp⟩
  | select q hs =>
    have hb : s.btSelect = false := by
      simp only [List.mem_cons, Prod.mk.injEq, List.not_mem_nil, or_false] at hs
      rcases hs with ⟨hs, _⟩ | ⟨hs, _⟩ | ⟨hs, _⟩ <;> rw [hsel, hs] <;> rfl
    exact ⟨[.sel], by simp [hb, Event.isBus, List.filter]⟩
  | held => exact ⟨[], by simp⟩
  | sent b q hl hb hq =>
    have := selected (State.transfers_of_btTx hb)
    exact ⟨[.xfer b none], by simp [this, hb, Event.isBus, List.filter]⟩
  | status hl hs =>
    have := selected (by rw [hs]; rfl)
    exact ⟨[.xfer s.params.dummyTx (some s.received)], by simp [State.statusRead, this, Event.isBus, List.filter, State.btTx, hs]⟩
  | dataRead hl hs =>
    have := selected (by rw [hs]; rfl)
    exact ⟨[.xfer s.params.dummyTx (some s.received), .pushed s.received], by
      simp [State.dataRead, this, Event.isBus, List.filter, State.btTx, hs]⟩
  | dataHeld d v hl hs hv =>
    rcases hv with ⟨_, rfl⟩ | ⟨_, _, _, rfl⟩
    · exact ⟨[], by simp⟩
    · exact ⟨[.taken d], by simp [Event.isBus, List.filter]⟩
  | dataSent d v hl hs hv =>
    have := selected (by rw [hs]; rfl)
    rcases hv with ⟨ho, rfl⟩ | ⟨ho, rest, hw, rfl⟩
    · exact ⟨[.xfer d none], by simp [State.dataSent, this, Event.isBus, List.filter, State.btTx, hs, ho]⟩
    · exact ⟨[.taken d, .xfer d none], by simp [State.dataSent, this, Event.isBus, List.filter, State.btTx, hs, ho, hw]⟩
  | done => exact ⟨[.done], by simp [Event.isBus, List.filter]⟩
  | close c st t hs hst hx ht =>
    have hb : s.btSelect = true := by rcases hs with hs | hs | hs <;> rw [hsel, hs] <;> rfl
    rw [afterInstr_eq ht]
    exact ⟨[.des], by simp [closed, hb, Event.isBus, List.filter]⟩

/-- Settles O45: reset releases an open frame, and every row adds at most the one bus event that fits the select line. -/
theorem framesNeverOverlap : Obligations.FramesNeverOverlap := by
  intro s t h hstep
  refine ⟨fun hb => ?_, ?_⟩
  · obtain ⟨⟨hb, ho⟩, _⟩ : (s.btTx.isSome = true ∧ s.outstanding.isNone = true) ∧ s.rst = false := by
      simpa [State.btStart] using hb
    obtain ⟨b, hb⟩ := Option.isSome_iff_exists.mp hb
    exact ⟨by simpa using ho, h.select.trans (Seq.selected_of_transfers (State.transfers_of_btTx hb))⟩
  · rcases step_cases hstep with ⟨_, rfl⟩ | ⟨_, hrow⟩
    · cases hb : s.btSelect
      · exact ⟨[], by simp [hb]⟩
      · exact ⟨[.des], by simp [hb, Event.isBus, List.filter]⟩
    · exact (hrow.events h.tick :)

/-! ## A transfer that is not completed (R196, R202) -/

/-- A step of a transferring state with a stalled transport holds its byte, or waits for one in C_WR. -/
theorem Row.of_stalled {s t : State} (hrow : Row s t) (hl : s.transport = .stalled) (ht : s.seq.transfers = true) :
    (∃ b, s.seq ≠ .cWr ∧ s.btTx = some b ∧ t = s.hold b) ∨ (s.seq = .cWr ∧ s.outstanding = none ∧ s.wdata = [] ∧ t = s) ∨
      ∃ d v, s.seq = .cWr ∧ s.Takes d v ∧ t = v.hold d := by
  cases hrow with
  | held b _ hs hb => exact .inl ⟨b, hs, hb, rfl⟩
  | waits hs ho hw => exact .inr (.inl ⟨hs, ho, hw, rfl⟩)
  | dataHeld d v _ hs hv => exact .inr (.inr ⟨d, v, hs, hv, rfl⟩)
  | sent b q hl' | status hl' | dataRead hl' | dataSent d v hl' => exact absurd hl hl'
  | silent hs | accept w rest hs | done hs => rw [hs] at ht; cases ht
  | select q hs =>
    simp only [List.mem_cons, Prod.mk.injEq, List.not_mem_nil, or_false] at hs
    rcases hs with ⟨hs, _⟩ | ⟨hs, _⟩ | ⟨hs, _⟩ <;> rw [hs] at ht <;> cases ht
  | close c st t hs => rcases hs with hs | hs | hs <;> rw [hs] at ht <;> cases ht

/-- Outside C_WR the byte on `bt_tx` does not depend on what is held. -/
theorem State.btTx_hold {s : State} (hs : s.seq ≠ .cWr) (b : Byte) : (s.hold b).btTx = s.btTx := by
  cases hq : s.seq
  case cWr => exact absurd hq hs
  all_goals simp [State.btTx, hq]

/-- Settles O33: the three things a stalled step can do. -/
theorem stalledTransferIsHeld : Obligations.StalledTransferIsHeld := by
  intro s hr hl htr h
  obtain ⟨t, hstep⟩ := h.step_next hr (by rintro hs; rw [hs] at htr; cases htr)
  refine ⟨t, hstep, ?_⟩
  rcases step_cases hstep with ⟨hr', _⟩ | ⟨_, hrow⟩
  · cases hr.symm.trans hr'
  rcases hrow.of_stalled hl htr with ⟨b, hs, hb, rfl⟩ | ⟨hs, ho, hw, rfl⟩ | ⟨d, v, hs, hv, rfl⟩
  · have hb' : s.btTx = some b := hb
    have hbt : (s.tick.hold b).btTx = s.btTx := State.btTx_hold hs b
    refine ⟨rfl, rfl, rfl, rfl, ⟨rfl, rfl, rfl, rfl⟩, rfl, rfl, rfl, rfl, hb'.symm, hbt, ?_, ?_⟩
    · simp [State.btStart]
    · simp [hb']
  · have hbt : s.btTx = none := by
      rw [State.tick_seq] at hs
      rw [State.tick_outstanding] at ho
      rw [State.tick_wdata] at hw
      simp [State.btTx, hs, ho, hw]
    have hbt' : s.tick.btTx = none := hbt
    refine ⟨rfl, rfl, rfl, rfl, ⟨rfl, rfl, rfl, rfl⟩, rfl, rfl, rfl, rfl, ?_, rfl, ?_, fun _ => ⟨hs, ho, hw⟩⟩
    · rw [hbt]; exact ho
    · simp [State.btStart, hbt']
  · have hs' : s.seq = .cWr := hs
    rcases hv with ⟨ho, rfl⟩ | ⟨ho, rest, hw, rfl⟩
    · have ho' : s.outstanding = some d := ho
      refine ⟨rfl, rfl, rfl, rfl, ⟨rfl, rfl, rfl, rfl⟩, rfl, rfl, rfl, rfl, ?_, ?_, ?_, ?_⟩ <;>
        simp [State.btTx, State.btStart, hs', ho']
    · have ho' : s.outstanding = none := ho
      have hw' : s.wdata = d :: rest := hw
      refine ⟨rfl, rfl, rfl, rfl, ⟨rfl, rfl, rfl, rfl⟩, rfl, rfl, ?_, rfl, ?_, ?_, ?_, ?_⟩ <;>
        simp [State.btTx, State.btStart, State.trace, Event.isBus, hs', ho', hw']

end Sys2Proof.Machine
end

section

namespace Sys2Proof.Machine

open Sys2Proof.Claims

/-! ## The chip under a transport that delivers what is sent (R63, R136, R143) -/

/-- The environment can only make a quiet chip quieter. -/
theorem State.ChipQuiet.tick {s : State} (h : s.ChipQuiet) : s.tick.ChipQuiet := fun ht =>
  ⟨fun hs => State.tick_wip_of_idle ((h ht).1 hs), (h ht).2⟩

/-- Nothing is asked of the chip outside the end of a poll, the write-enable frame and the command frame. -/
theorem State.chipQuiet_of_seq {s : State} (h : s.seq ≠ .pDes ∧ s.seq.enabling = false ∧ s.seq.commanding = false) :
    s.ChipQuiet := by
  obtain ⟨hp, he, hc⟩ := h
  exact fun _ => ⟨by simp [hp, he, hc], by simp [hc]⟩

/-- A row inside the write-enable or the command frame leaves the chip as it was. -/
theorem State.ChipQuiet.of_same {s t : State} (h : s.ChipQuiet) (ht : t.transport = s.transport) (hc : t.chip = s.chip)
    (ho : t.op = s.op) (he : s.seq.enabling = true ∨ s.seq.commanding = true)
    (hcmd : t.seq.commanding = true → s.seq.commanding = true) : t.ChipQuiet := by
  intro hf
  obtain ⟨hidle, hlatch⟩ := h (ht ▸ hf)
  rw [hc, ho]
  exact ⟨fun _ => hidle (.inr he), fun hq => hlatch (hcmd hq)⟩

/-- What the chip makes of a frame that is delivered, where the spec says it. -/
theorem State.react_reaction {s : State} {i : Instr} {c : Chip} (ht : s.transport ≠ .unfaithful)
    (h : s.chip.reaction s.params i = some c) : s.react (s.chip.reaction s.params i) = c := by
  rw [h, State.react_some ht]

theorem State.Closes.eq_rdsr {s : State} {i : Instr} (h : s.Closes i) (hs : s.seq = .pDes) : i = .rdsr := by
  cases i <;> simp_all [State.Closes]

/-- The read-status frame that ends a poll leaves the chip alone (R213). -/
theorem State.Closes.react_of_poll {s : State} {i : Instr} (h : s.Closes i) (hs : s.seq = .pDes)
    (ht : s.transport ≠ .unfaithful) : s.react (s.chip.reaction s.params i) = s.chip := by
  rw [h.eq_rdsr hs]
  exact State.react_some ht

theorem State.Closes.eq_wren {s : State} {i : Instr} (h : s.Closes i) (hs : s.seq = .wDes) : i = .wren := by
  cases i <;> simp_all [State.Closes]

/-- Every row keeps the chip quiet. -/
theorem Row.chipQuiet {s t : State} (h : s.Inv) (hq : s.ChipQuiet) (hrow : Row s t) : t.ChipQuiet := by
  cases hrow with
  | silent | waits | held => exact hq
  | accept w rest hs =>
    rcases leaveIdle_cases (State.load { s with requests := rest } (reqCode w) (reqAddr w) (reqLen w)) with
      ⟨_, _, _, h⟩ | ⟨_, h⟩ | ⟨_, _, h⟩ <;> rw [h] <;> exact State.chipQuiet_of_seq (by simp [Seq.enabling, Seq.commanding])
  | select q hs =>
    simp only [List.mem_cons, Prod.mk.injEq, List.not_mem_nil, or_false] at hs
    rcases hs with ⟨hs, rfl⟩ | ⟨hs, rfl⟩ | ⟨hs, rfl⟩
    · exact State.chipQuiet_of_seq (by simp [Seq.enabling, Seq.commanding])
    all_goals exact hq.of_same rfl rfl rfl (by simp [hs, Seq.enabling, Seq.commanding]) (by simp [hs, Seq.commanding])
  | sent b q hl hb hnext =>
    rcases sent_cases hb hnext with
      ⟨hs, _, rfl⟩ | ⟨hs, _, rfl⟩ | ⟨hs, _, _, rfl⟩ | ⟨hs, ho, _, rfl⟩ | ⟨hs, _, rfl⟩ | ⟨hs, _, rfl⟩ | ⟨hs, _, _⟩
    · exact State.chipQuiet_of_seq (by simp [Seq.enabling, Seq.commanding])
    all_goals exact hq.of_same rfl rfl rfl (by simp [hs, Seq.enabling, Seq.commanding]) (by simp [hs, Seq.commanding])
  | status hl hs =>
    have hf := h.frame
    simp only [State.FrameOk, hs] at hf
    refine fun ht => ⟨?_, by simp [State.statusRead, Seq.commanding]⟩
    rintro (⟨_, hseen⟩ | he | he)
    · have hr : s.received.getLsbD 0 = s.chip.wip := State.received_status ht (by simp [State.sent, hf])
      exact hr.symm.trans hseen
    · simp [State.statusRead, Seq.enabling] at he
    · simp [State.statusRead, Seq.commanding] at he
  | dataRead hl hs =>
    exact hq.of_same rfl rfl rfl (by simp [hs, Seq.commanding]) (by simp [hs, Seq.commanding])
  | dataHeld d v hl hs hv | dataSent d v hl hs hv =>
    rcases hv with ⟨_, rfl⟩ | ⟨_, _, _, rfl⟩ <;>
      exact hq.of_same rfl rfl rfl (by simp [hs, Seq.commanding]) (by simp [hs, Seq.commanding])
  | done => exact State.chipQuiet_of_seq (by simp [Seq.enabling, Seq.commanding])
  | close c st t hs hst hx ht =>
    obtain ⟨i, _, hi, _, ht⟩ := h.close_row hs hx ht
    rcases afterInstr_cases ht hs with ⟨_, _, _, rfl⟩ | ⟨_, _, _, rfl⟩ | ⟨_, _, _, rfl⟩ | ⟨hs', hw, ho, rfl⟩ |
      ⟨hs', hw, _, _, _, rfl⟩ | ⟨_, _, rfl⟩ | ⟨hs', _, rfl⟩ | ⟨_, _, _, rfl⟩ | ⟨_, _, rfl⟩
    case inr.inr.inr.inl =>
      intro htr
      rw [hi.react_of_poll hs' htr]
      exact ⟨fun _ => (hq htr).1 (.inl ⟨hs', hw⟩), fun _ hne => absurd ho hne⟩
    case inr.inr.inr.inr.inl =>
      intro htr
      rw [hi.react_of_poll hs' htr]
      exact ⟨fun _ => (hq htr).1 (.inl ⟨hs', hw⟩), fun hc => absurd hc (by simp [Seq.commanding])⟩
    case inr.inr.inr.inr.inr.inr.inl =>
      intro htr
      have htr' : s.transport ≠ .unfaithful := by simpa [closed] using htr
      have hidle : s.chip.wip = false := (hq htr').1 (.inr (.inl (by rw [show s.seq = .wDes from hs']; rfl)))
      have hchip : s.react (s.chip.reaction s.params i) = { mem := s.chip.mem, wel := true, wip := false } := by
        rw [hi.eq_wren hs']
        exact State.react_reaction (i := .wren) htr' (Chip.onWren_of_idle hidle)
      rw [hchip, State.loadChunk_eq]
      exact ⟨fun _ => rfl, fun _ _ => rfl⟩
    all_goals exact State.chipQuiet_of_seq (by simp [Seq.enabling, Seq.commanding])

/-- Settles O40: a reset leaves IDLE, and every row keeps the chip quiet. -/
theorem stepKeepsTheChipQuiet : Obligations.StepKeepsTheChipQuiet := by
  intro s t h hq hstep
  rcases step_cases hstep with ⟨_, rfl⟩ | ⟨_, hrow⟩
  · exact State.chipQuiet_of_seq (by simp [Seq.enabling, Seq.commanding])
  · exact hrow.chipQuiet h.tick hq.tick

/-- A row that closes no frame leaves the chip alone. -/
theorem Row.chip_eq {s t : State} (hrow : Row s t) : (s.seq = .pDes ∨ s.seq = .wDes ∨ s.seq = .cDes) ∨ t.chip = s.chip := by
  cases hrow with
  | close c st t hs => exact .inl hs
  | accept => rw [State.leaveIdle_eq]; exact .inr rfl
  | dataHeld d v hl hs hv | dataSent d v hl hs hv => rcases hv with ⟨_, rfl⟩ | ⟨_, _, _, rfl⟩ <;> exact .inr rfl
  | silent | select | held | sent | status | dataRead | waits | done => exact .inr rfl

/-- The frames that do not start a command leave the array and an idle chip's busy bit alone, a read past the array apart. -/
theorem State.Closes.chip_unchanged {s : State} {i : Instr} (hq : s.ChipQuiet) (ht : s.transport ≠ .unfaithful)
    (hi : s.Closes i) (hcmd : ¬ (s.seq = .cDes ∧ (s.op = codeWrite ∨ s.op = codeEraseSector ∨ s.op = codeEraseAll ∨
      s.op = codeRead ∧ s.params.outOfContract = .literal))) :
    (s.react (s.chip.reaction s.params i)).mem = s.chip.mem ∧
      (s.chip.wip = false → (s.react (s.chip.reaction s.params i)).wip = false) := by
  cases i with
  | pp a d => obtain ⟨hs, ho, _⟩ := hi; exact absurd ⟨hs, .inl ho⟩ hcmd
  | se a => obtain ⟨hs, ho, _⟩ := hi; exact absurd ⟨hs, .inr (.inl ho)⟩ hcmd
  | be => obtain ⟨hs, ho⟩ := hi; exact absurd ⟨hs, .inr (.inr (.inl ho))⟩ hcmd
  | rdsr =>
    rw [State.react_reaction (c := s.chip) ht rfl]
    exact ⟨rfl, id⟩
  | wren =>
    have hidle : s.chip.wip = false := (hq ht).1 (.inr (.inl (by rw [show s.seq = .wDes from hi]; rfl)))
    rw [State.react_reaction (i := .wren) ht (Chip.onWren_of_idle hidle)]
    exact ⟨rfl, fun _ => rfl⟩
  | readData a n =>
    obtain ⟨hs, ho, _, _, hc⟩ := hi
    have hidle : s.chip.wip = false := (hq ht).1 (.inr (.inr (by rw [hs]; rfl)))
    have hp : s.params.outOfContract = .refuse := by
      cases hp : s.params.outOfContract with
      | refuse => rfl
      | literal => exact absurd ⟨hs, .inr (.inr (.inr ⟨ho, hp⟩))⟩ hcmd
    obtain ⟨ha, hin⟩ := hc hp
    have hrange : rangeInContract s.params a n = true := by
      simp only [rangeInContract, Bool.and_eq_true, decide_eq_true_eq]
      omega
    rw [State.react_reaction (i := .readData a n) ht (Chip.onRead_inside hidle hrange)]
    exact ⟨rfl, id⟩
  | readReq a n | writeReq a n | eraseSectorReq a n | eraseAllReq a n | waitReq a n | enableWriteReq a n => exact hi.elim

/-- Settles O49: only a closing row changes the chip, and there only a command or a read past the array. -/
theorem chipChangesOnlyByCommand : Obligations.ChipChangesOnlyByCommand := by
  intro s t h hq ht hr hstep hchange
  by_contra hcmd
  have key : t.chip.mem = s.chip.mem ∧ (s.chip.wip = false → t.chip.wip = false) := by
    rcases step_cases hstep with ⟨hr', _⟩ | ⟨_, hrow⟩
    · cases hr.symm.trans hr'
    · rcases hrow.chip_eq with hs | hchip
      · obtain ⟨i, hi, hafter⟩ := h.close_step hr hs hstep
        obtain ⟨hmem, hwip⟩ := State.Closes.chip_unchanged (s := s.tick) hq.tick ht hi hcmd
        rw [afterInstr_eq hafter]
        exact ⟨hmem, fun hw => hwip (State.tick_wip_of_idle hw)⟩
      · rw [hchip]
        exact ⟨rfl, State.tick_wip_of_idle⟩
  obtain ⟨hmem, hwip⟩ := key
  rcases hchange with ⟨hidle, hbusy⟩ | hne
  · simp [hwip hidle] at hbusy
  · exact hne hmem

end Sys2Proof.Machine
end

section

namespace Sys2Proof.Machine

open Sys2Proof.Claims

/-! ## The split in closed form (R162) -/

/-- Where chunk `i` of a write at `a` begins: at `a`, then at each page boundary. -/
def chunkStart (a : Addr) (i : Nat) : Nat := if i = 0 then a.toNat else (a.toNat / 256 + i) * 256

/-- Where it ends: at the next page boundary, or with the data. -/
def chunkEnd (a : Addr) (n : Len) (i : Nat) : Nat := min ((a.toNat / 256 + i + 1) * 256) (a.toNat + n.toNat)

/-- The first chunk is the one of the machine. -/
theorem chunkSize_eq (a : Addr) (n : Len) : chunkSize a n = chunkEnd a n 0 - chunkStart a 0 := by
  unfold chunkSize pageOffset pageSize chunkEnd chunkStart
  simp only [if_true]
  omega

/-- What is left after the first chunk is the write of the other chunks. -/
theorem chunk_rest {a : Addr} {n : Len} (hin : a.toNat + n.toNat ≤ 2 ^ 24) :
    (n - BitVec.ofNat 24 (chunkSize a n)).toNat = n.toNat - chunkSize a n ∧
      (chunkSize a n < n.toNat → (a + BitVec.ofNat 24 (chunkSize a n)).toNat = (a.toNat / 256 + 1) * 256) := by
  have hle := chunkSize_le_remaining a n
  refine ⟨by bv_omega, fun hlt => ?_⟩
  have hfull := chunkSize_of_lt_remaining hlt
  unfold pageOffset pageSize at hfull
  bv_omega

theorem splitWrite_of_zero (fuel : Nat) (a : Addr) : splitWrite fuel a 0#24 = [] := by
  cases fuel <;> simp [splitWrite]

/-- The chunks after the first, from the next page boundary on. -/
theorem chunk_of_rest {a a' : Addr} {n n' : Len} (ha : a'.toNat = (a.toNat / 256 + 1) * 256)
    (hsum : a'.toNat + n'.toNat = a.toNat + n.toNat) (i : Nat) :
    chunkStart a' i = chunkStart a (i + 1) ∧ chunkEnd a' n' i = chunkEnd a n (i + 1) := by
  have hpage : a'.toNat / 256 = a.toNat / 256 + 1 := by omega
  refine ⟨?_, ?_⟩
  · cases i with
    | zero => simp [chunkStart, ha]
    | succ i => simp [chunkStart, hpage, Nat.add_assoc, Nat.add_comm 1]
  · simp [chunkEnd, hpage, hsum, Nat.add_assoc, Nat.add_comm 1]

/-- Chunk by chunk, the loop of the splitter is the closed form (R160, R162). -/
theorem splitWrite_getElem? (fuel : Nat) (a : Addr) (n : Len) (hin : a.toNat + n.toNat ≤ 2 ^ 24) (hf : n.toNat ≤ fuel)
    (i : Nat) : (splitWrite fuel a n)[i]? =
      if chunkStart a i < a.toNat + n.toNat then
        some (BitVec.ofNat 24 (chunkStart a i), chunkEnd a n i - chunkStart a i) else none := by
  induction fuel generalizing a n i with
  | zero =>
    rw [if_neg]
    · rfl
    · unfold chunkStart; split <;> omega
  | succ f ih =>
    by_cases hn : n = 0#24
    · subst hn
      rw [splitWrite_of_zero, if_neg]
      · simp
      · have h0 : (0#24).toNat = 0 := rfl
        unfold chunkStart
        split <;> omega
    · have hpos := chunkSize_pos (a := a) hn
      have h1 := Len.ne_zero_iff.mp hn
      obtain ⟨hrest, hnext⟩ := chunk_rest hin
      rw [splitWrite, if_neg hn]
      cases i with
      | zero =>
        rw [if_pos (by simp [chunkStart]; omega), ← chunkSize_eq]
        simp [chunkStart]
      | succ i =>
        rw [List.getElem?_cons_succ]
        by_cases hlt : chunkSize a n < n.toNat
        · have hsum : (a + BitVec.ofNat 24 (chunkSize a n)).toNat + (n - BitVec.ofNat 24 (chunkSize a n)).toNat =
              a.toNat + n.toNat := by
            have hfull := chunkSize_of_lt_remaining hlt
            unfold pageOffset pageSize at hfull
            rw [hrest, hnext hlt]
            omega
          obtain ⟨hstart, hend⟩ := chunk_of_rest (hnext hlt) hsum i
          rw [ih _ _ (by omega) (by omega), hsum, hstart, hend]
        · have hall : n - BitVec.ofNat 24 (chunkSize a n) = 0#24 := by
            have hle := chunkSize_le_remaining a n
            apply BitVec.eq_of_toNat_eq
            rw [hrest]
            simp
            omega
          rw [hall, splitWrite_of_zero, if_neg]
          · rfl
          · have hfit := pageOffset_add_chunkSize_le a n
            have hle := chunkSize_le_remaining a n
            unfold pageOffset pageSize at hfit
            simp only [chunkStart, Nat.succ_ne_zero, if_false]
            omega

/-- The sizes of the chunks make up the length (R160). -/
theorem splitWrite_sum (fuel : Nat) (a : Addr) (n : Len) (hf : n.toNat ≤ fuel) :
    ((splitWrite fuel a n).map (·.2)).sum = n.toNat := by
  induction fuel generalizing a n with
  | zero => simp [splitWrite]; omega
  | succ f ih =>
    by_cases hn : n = 0#24
    · subst hn; rw [splitWrite_of_zero]; rfl
    · have hpos := chunkSize_pos (a := a) hn
      have hle := chunkSize_le_remaining a n
      have hrest : (n - BitVec.ofNat 24 (chunkSize a n)).toNat = n.toNat - chunkSize a n := by bv_omega
      rw [splitWrite, if_neg hn, List.map_cons, List.sum_cons, ih _ _ (by omega), hrest]
      simp only
      omega

/-- A list that has elements up to `k` and no further has `k` elements. -/
theorem length_eq_of_getElem? {α : Type} {l : List α} {k : Nat} (h : ∀ i, (l[i]?).isSome ↔ i < k) : l.length = k := by
  have hlen : ∀ i, i < l.length ↔ i < k := fun i => by rw [← h i]; simp
  have := hlen k
  have := hlen l.length
  omega

/-- Settles O35: the closed form of each chunk, read at the positions the statement names. -/
theorem splitHasTheClosedForm : Obligations.SplitHasTheClosedForm := by
  intro a n fuel hn hin hf
  have h1 := Len.ne_zero_iff.mp hn
  have hget := splitWrite_getElem? fuel a n hin hf
  have hlen : (splitWrite fuel a n).length = (a.toNat % 256 + n.toNat - 1) / 256 + 1 := by
    refine length_eq_of_getElem? fun i => ?_
    rw [hget i, Option.isSome_ite]
    unfold chunkStart
    split <;> omega
  refine ⟨hlen, ?_, fun i h0 hi => ?_, fun h => ?_, splitWrite_sum fuel a n hf⟩
  · rw [hget, if_pos (by simp [chunkStart]; omega), ← chunkSize_eq]
    simp [chunkStart, chunkSize, pageOffset, pageSize]
  · rw [hlen] at hi
    have hs : chunkStart a i = (a.toNat / 256 + i) * 256 := by simp [chunkStart]; omega
    rw [hget, if_pos (by omega), hs]
    have he : chunkEnd a n i - (a.toNat / 256 + i) * 256 = 256 := by unfold chunkEnd; omega
    rw [he]
  · rw [hlen] at h ⊢
    rw [Nat.add_sub_cancel]
    obtain ⟨k, hk⟩ : ∃ k, (a.toNat % 256 + n.toNat - 1) / 256 = k := ⟨_, rfl⟩
    rw [hk] at h ⊢
    have hs : chunkStart a k = (a.toNat / 256 + k) * 256 := by simp [chunkStart]; omega
    have he : chunkEnd a n k - (a.toNat / 256 + k) * 256 = (a.toNat % 256 + n.toNat - 1) % 256 + 1 := by
      unfold chunkEnd; omega
    rw [hget, if_pos (by omega), hs, he]
    rfl

end Sys2Proof.Machine
end

section

namespace Sys2Proof.Machine

open Sys2Proof.Claims

/-! ## Segments of a request on an idle chip -/

/-- Where a poll that reads idle leads (R191). -/
def afterPoll (c : Code) : Seq := if c = codeWait then .fin else if c = codeRead then .cSel else .wSel

/-- `s` after one poll that read idle with status byte `st`. -/
def State.polledIdle (s : State) (st : Byte) : State :=
  { s with
    seq := afterPoll s.op
    srShadow := st
    btSelect := false
    pollCnt := if s.params.pollLimit.isSome then s.pollCnt + 1 else s.pollCnt
    outstanding := none
    frame := []
    draw := s.draw + 4
    events := s.events ++ [.sel, out opcRDSR, .xfer s.params.dummyTx (some st), .des] }

/-- `s` with its chip idle. -/
def State.quiet (s : State) : State := { s with chip := { s.chip with wip := false } }

theorem State.quiet_of_idle {s : State} (hw : s.chip.wip = false) : s.quiet = s := by
  rw [State.quiet, ← hw]

theorem State.after_quiet {s : State} {k l : Nat} (h : (s.after k).chip.wip = false) (hkl : k ≤ l) :
    s.after l = { s.quiet with draw := s.draw + l } := by
  obtain ⟨m, rfl⟩ := Nat.exists_eq_add_of_le hkl
  have hchip : (s.after k).chip = { s.chip with wip := false } := Chip.mk.injEq .. |>.mpr ⟨rfl, rfl, h⟩
  rw [← State.after_after, State.after_of_idle m h, hchip, State.quiet]
  simp [State.after, Nat.add_assoc]

/-- The poll that reads idle is the last (R131, R134). -/
theorem runSteps_poll_ends {s : State} (hr : s.rst = false) (hs : s.seq = .pSel) (hl : s.transport ≠ .stalled)
    (ht : s.transport ≠ .unfaithful) (hop : s.op.toNat ≤ 5) (hw : (s.after 3).chip.wip = false) :
    ∃ st : Byte, st.getLsbD 0 = false ∧ runSteps 4 s = .next (s.quiet.polledIdle st) := by
  have hseen : s.polled.wipSeen = false := by rw [State.wipSeen_polled ht, hw]
  refine ⟨s.polled.srShadow, hseen, ?_⟩
  rw [runSteps_four_of_pSel hr hs hl ht, afterPDes_of_idle hseen (by rw [State.polled_eq]; exact hop), State.polled_eq,
    State.after_quiet hw (by decide : 3 ≤ 4)]
  rfl

/-- One poll of an idle chip is enough. -/
theorem runSteps_poll_of_idle {s : State} (hr : s.rst = false) (hs : s.seq = .pSel) (hl : s.transport ≠ .stalled)
    (ht : s.transport ≠ .unfaithful) (hop : s.op.toNat ≤ 5) (hw : s.chip.wip = false) :
    ∃ st : Byte, st.getLsbD 0 = false ∧ runSteps 4 s = .next (s.polledIdle st) := by
  have h := runSteps_poll_ends hr hs hl ht hop (by rw [State.after_of_idle 3 hw]; exact hw)
  rwa [State.quiet_of_idle hw] at h

/-- `s` after the request of these fields is accepted and a poll entered (R192). -/
def State.accepted (s : State) (c : Code) (a : Addr) (n : Len) (rest : List ReqWord) : State :=
  { s.after 1 with requests := rest, op := c, curAddr := a, remaining := n, pollCnt := 0, seq := .pSel }

theorem step_accepted {s : State} {c : Code} {a : Addr} {n : Len} {rest : List ReqWord} (hr : s.rst = false)
    (hs : s.seq = .idle) (hq : s.requests = packRequest c a n :: rest)
    (h : s.params.outOfContract = .literal ∨ wordInContract s.params (packRequest c a n) = true) (hc : c.toNat ≤ 5)
    (hp : c ≠ codeWrite ∨ polls s n) : step s = .next (s.accepted c a n rest) := by
  rw [step_accept hr hs hq h, reqCode_packRequest, reqAddr_packRequest, reqLen_packRequest,
    State.leaveIdle_of_polls (s := State.load { s.tick with requests := rest } c a n) hc fun h => hp.resolve_left fun hn => hn h,
    State.tick_eq]
  rfl

/-- `s` after the request of these fields is accepted and a poll entered, the chip being idle. -/
def State.begun (s : State) (c : Code) (a : Addr) (n : Len) (rest : List ReqWord) : State :=
  { s with requests := rest, op := c, curAddr := a, remaining := n, pollCnt := 0, seq := .pSel, draw := s.draw + 1 }

theorem State.accepted_of_idle {s : State} (c : Code) (a : Addr) (n : Len) (rest : List ReqWord) (hw : s.chip.wip = false) :
    s.accepted c a n rest = s.begun c a n rest := by
  rw [State.accepted, State.after_of_idle 1 hw]
  rfl

/-- `s` after the write-enable frame, the chip being idle (R145, R215). -/
def State.enabled (s : State) : State :=
  { s with
    seq := if s.op = codeEnableWrite then .fin else .cSel
    chunk := if s.op = codeWrite then BitVec.ofNat 9 (chunkSize s.curAddr s.remaining) else s.chunk
    btSelect := false
    outstanding := none
    frame := []
    chip := { mem := s.chip.mem, wel := true, wip := false }
    draw := s.draw + 3
    events := s.events ++ [.sel, out opcWREN, .des] }

theorem runSteps_enabled {s : State} (hr : s.rst = false) (hs : s.seq = .wSel) (hl : s.transport ≠ .stalled)
    (ht : s.transport ≠ .unfaithful) (hw : s.chip.wip = false) : runSteps 3 s = .next s.enabled := by
  rw [runSteps_three_of_wSel hr hs hl]
  have hreact : s.enableSent.tick.react s.enableSent.tick.chip.onWren = { mem := s.chip.mem, wel := true, wip := false } := by
    rw [State.enableSent_tick_chip_of_idle hw, Chip.onWren_of_idle hw, State.react_some (s := s.enableSent.tick) ht]
  rw [State.closeFrame_eq, hreact]
  by_cases ho : s.op = codeWrite <;>
    simp [afterWDes, State.loadChunk, State.enabled, closed, State.enableSent, State.goTo, State.exchange, State.select,
      State.tick, out, ho]

/-- FIN on an idle chip. -/
theorem step_finished {s : State} (hr : s.rst = false) (hs : s.seq = .fin) (hw : s.chip.wip = false) :
    step s = .next { s with seq := .idle, draw := s.draw + 1, events := s.events ++ [.done] } := by
  rw [step_fin hr hs, State.tick_eq, State.after_of_idle 1 hw]
  rfl

/-- Executing a frame that is delivered and whose reaction the spec gives. -/
theorem exec_frame_of_reaction {s : State} {i : Instr} {c : Chip} (hi : i.isFrame = true) (hne : i ≠ .rdsr)
    (ht : s.transport ≠ .unfaithful) (hc : s.chip.reaction s.params i = some c) : exec i s = .next (closed s c) := by
  rw [exec_frame hi, if_neg hne, hc, State.react_some ht]

/-- The end of a command frame on an idle chip, where the spec gives its reaction (R110, R170). -/
theorem step_command {s : State} {i : Instr} {c : Chip} (hr : s.rst = false) (hs : s.seq = .cDes)
    (ht : s.transport ≠ .unfaithful) (hd : decode (.frame s.sent) = .ok i) (hne : i ≠ .rdsr) (hw : s.chip.wip = false)
    (hc : s.chip.reaction s.params i = some c) :
    step s = .next (afterCDes (closed { s with draw := s.draw + 1 } c)) := by
  have htick : s.tick = { s with draw := s.draw + 1 } := by rw [State.tick_eq, State.after_of_idle 1 hw]
  have hx := exec_frame_of_reaction (s := { s with draw := s.draw + 1 }) (decode_frame_isFrame hd) hne ht hc
  rw [step_close hr (.inr (.inr hs)) hd, htick, hx, andThen_next]
  simp only [afterInstr, closed, hs]

/-- `s`, in C_DES, with the command frame closed on the chip `c` and the request finished. -/
def State.commanded (s : State) (c : Chip) : State :=
  { s with
    seq := .idle
    btSelect := false
    frame := []
    chip := c.after s.pace (s.draw + 1) 1
    draw := s.draw + 2
    events := s.events ++ [.des, .done] }

/-- The last two steps of a request: the command frame is closed, and done is signalled (R170, R197). -/
theorem runSteps_commanded {s : State} {i : Instr} {c : Chip} (hr : s.rst = false) (hs : s.seq = .cDes)
    (ht : s.transport ≠ .unfaithful) (hd : decode (.frame s.sent) = .ok i) (hne : i ≠ .rdsr) (hw : s.chip.wip = false)
    (hc : s.chip.reaction s.params i = some c) (hlast : s.op ≠ codeWrite ∨ s.remaining = 0#24) :
    runSteps 2 s = .next (s.commanded c) := by
  have hstep := step_command hr hs ht hd hne hw hc
  have hmore : ¬ (s.op = codeWrite ∧ s.remaining ≠ 0#24) := fun ⟨ho, hrem⟩ => hlast.elim (fun h => h ho) hrem
  rw [afterCDes, if_neg (by exact hmore)] at hstep
  have hfin := step_fin (s := (closed { s with draw := s.draw + 1 } c).goTo .fin) hr rfl
  rw [runSteps_of_step hstep, runSteps_one hfin, State.tick_eq]
  simp [rowFin, State.commanded, State.after, State.goTo, closed, State.observe]

/-! ## Requests without data on an idle chip (R130, R140, R180 to R182) -/

/-- `s` five steps after a request is offered to an idle block with an idle chip: accepted, and one poll made. -/
def State.ready (s : State) (c : Code) (a : Addr) (n : Len) (rest : List ReqWord) (st : Byte) : State :=
  (s.begun c a n rest).polledIdle st

theorem runSteps_ready {s : State} {c : Code} {a : Addr} {n : Len} {rest : List ReqWord} (hr : s.rst = false)
    (hs : s.seq = .idle) (hq : s.requests = packRequest c a n :: rest) (ht : s.transport = .faithful)
    (hin : wordInContract s.params (packRequest c a n) = true) (hc : c.toNat ≤ 5) (hp : c ≠ codeWrite ∨ polls s n)
    (hw : s.chip.wip = false) : ∃ st : Byte, st.getLsbD 0 = false ∧ runSteps 5 s = .next (s.ready c a n rest st) := by
  have hbegin := step_accepted hr hs hq (.inr hin) hc hp
  rw [State.accepted_of_idle c a n rest hw] at hbegin
  obtain ⟨st, hst, hpoll⟩ := runSteps_poll_of_idle (s := s.begun c a n rest) hr rfl (by simp [State.begun, ht])
    (by simp [State.begun, ht]) hc hw
  exact ⟨st, hst, (runSteps_of_step hbegin).trans hpoll⟩

/-- A request that has no operands in contract to keep. -/
theorem wordInContract_plain {p : Params} {c : Code} {a : Addr} {n : Len} (hc : c.toNat ≤ 5) (h0 : c ≠ codeRead)
    (h1 : c ≠ codeWrite) (h2 : c ≠ codeEraseSector) : wordInContract p (packRequest c a n) = true :=
  wordInContract_pack hc (fun h => by rcases h with h | h <;> contradiction) fun h => absurd h h2

/-- Settles O51: accepted, polled, done. -/
theorem waitCompletesOnAnIdleChip : Obligations.WaitCompletesOnAnIdleChip := by
  intro s a n rest hr hs hq ht hw
  obtain ⟨st, hst, hready⟩ := runSteps_ready hr hs hq ht (wordInContract_plain (by decide) (by decide) (by decide) (by decide))
    (by decide) (.inl (by decide)) hw
  have hfin := step_finished (s := s.ready codeWait a n rest st) hr rfl hw
  exact ⟨_, runSteps_trans (j := 5) (k := 1) hready (runSteps_one hfin), rfl, rfl, rfl, hst, rfl, by
    simp [State.ready, State.polledIdle, State.begun, opcRDSR]⟩

/-- Settles O52: accepted, polled, write-enable frame, done. -/
theorem enableWriteLeavesTheLatchSet : Obligations.EnableWriteLeavesTheLatchSet := by
  intro s a n rest hr hs hq ht hw
  obtain ⟨st, hst, hready⟩ := runSteps_ready hr hs hq ht (wordInContract_plain (by decide) (by decide) (by decide) (by decide))
    (by decide) (.inl (by decide)) hw
  have hu : (s.ready codeEnableWrite a n rest st).transport = .faithful := ht
  have hen := runSteps_enabled (s := s.ready codeEnableWrite a n rest st) hr rfl (by simp [hu]) (by simp [hu]) hw
  have hfin := step_finished (s := (s.ready codeEnableWrite a n rest st).enabled) hr rfl rfl
  exact ⟨_, runSteps_trans (j := 5) (k := 4) hready (runSteps_trans (j := 3) (k := 1) hen (runSteps_one hfin)), rfl, rfl, rfl,
    rfl, by simp [State.enabled, State.ready, State.polledIdle, State.begun, opcRDSR, opcWREN]⟩

/-- `s`, in C_SEL, with the bulk-erase opcode sent, the chip being idle. -/
def State.bulkSent (s : State) : State :=
  { s with
    seq := .cDes
    btSelect := true
    outstanding := none
    frame := [{ tx := opcBE, rx := none }]
    draw := s.draw + 2
    events := s.events ++ [.sel, out opcBE] }

theorem runSteps_bulkSent {s : State} (hr : s.rst = false) (hs : s.seq = .cSel) (hl : s.transport ≠ .stalled)
    (ho : s.op = codeEraseAll) (hw : s.chip.wip = false) : runSteps 2 s = .next s.bulkSent := by
  have h1 : step s = .next (s.tick.select.goTo .cOp) := step_cSel hr hs
  have h2 : step (s.tick.select.goTo .cOp) = .next ((s.tick.select.goTo .cOp).sendTo opcBE .cDes) :=
    step_send hr hl (by simp [State.btTx, ho]; rfl) (by simp [State.afterSend, ho])
  rw [runSteps_of_step h1, runSteps_one h2]
  simp [State.bulkSent, State.sendTo, State.tick_eq, State.after, State.goTo, State.exchange, State.select, out,
    Chip.after_of_idle, hw]

/-- Settles O53: accepted, polled, write-enable frame, bulk-erase frame, done. -/
theorem eraseAllErasesTheArray : Obligations.EraseAllErasesTheArray := by
  intro s a n rest hr hs hq ht hw
  obtain ⟨st, hst, hready⟩ := runSteps_ready hr hs hq ht (wordInContract_plain (by decide) (by decide) (by decide) (by decide))
    (by decide) (.inl (by decide)) hw
  have hu : (s.ready codeEraseAll a n rest st).transport = .faithful := ht
  have hen := runSteps_enabled (s := s.ready codeEraseAll a n rest st) hr rfl (by simp [hu]) (by simp [hu]) hw
  have hsent := runSteps_bulkSent (s := (s.ready codeEraseAll a n rest st).enabled) hr rfl (by simp [State.enabled, hu]) rfl rfl
  have hdone := runSteps_commanded (s := (s.ready codeEraseAll a n rest st).enabled.bulkSent) (i := .be) hr rfl
    (by simp [State.bulkSent, State.enabled, hu]) rfl (by simp) rfl (Chip.onBE_of_ready rfl)
    (.inl (show codeEraseAll ≠ codeWrite by decide))
  refine ⟨_, runSteps_trans (j := 5) (k := 7) hready (runSteps_trans (j := 3) (k := 4) hen
    (runSteps_trans (j := 2) (k := 2) hsent hdone)), rfl, rfl, rfl, rfl, fun x => rfl, ?_⟩
  simp [State.commanded, State.bulkSent, State.enabled, State.ready, State.polledIdle, State.begun, opcRDSR, opcWREN, opcBE]

/-- `s`, in C_SEL, with the header sent, the chip being idle. -/
def State.addressed (s : State) (opc : Byte) (q : Seq) : State :=
  { s with
    seq := q
    btSelect := true
    outstanding := none
    frame := (header opc s.curAddr).map fun b => { tx := b, rx := none }
    draw := s.draw + 5
    events := s.events ++ .sel :: (header opc s.curAddr).map out }

theorem runSteps_addressed {s : State} {opc : Byte} {q : Seq} (hr : s.rst = false) (hs : s.seq = .cSel)
    (hl : s.transport ≠ .stalled) (hopc : opcodeOf s.op = some opc) (hne : s.op ≠ codeEraseAll)
    (hq : afterHeader s = some q) (hw : s.chip.wip = false) : runSteps 5 s = .next (s.addressed opc q) := by
  rw [runSteps_five_of_cSel hr hs hl hopc hne hq, State.headerSent_eq, State.after_of_idle 5 hw]
  rfl

/-- Settles O54: accepted, polled, write-enable frame, sector-erase frame, done. -/
theorem eraseSectorErasesItsSector : Obligations.EraseSectorErasesItsSector := by
  intro s a n rest hr hs hq ht hw hm ha hsec
  have hin : wordInContract s.params (packRequest codeEraseSector a n) = true :=
    wordInContract_pack (by decide) (fun h => absurd h (by decide)) fun _ => by simpa [addrInContract] using ha
  obtain ⟨st, hst, hready⟩ := runSteps_ready hr hs hq ht hin (by decide) (.inl (by decide)) hw
  let u := s.ready codeEraseSector a n rest st
  have hu : u.transport = .faithful := ht
  have hen : runSteps 3 u = .next u.enabled := runSteps_enabled hr rfl (by simp [hu]) (by simp [hu]) hw
  have hlive : u.enabled.transport ≠ .stalled ∧ u.enabled.transport ≠ .unfaithful := by simp [State.enabled, hu]
  have hhead : runSteps 5 u.enabled = .next (u.enabled.addressed opcSE .cDes) :=
    runSteps_addressed hr rfl hlive.1 rfl (show codeEraseSector ≠ codeEraseAll by decide) rfl rfl
  have hdone := runSteps_commanded (s := u.enabled.addressed opcSE .cDes) (i := .se a) hr rfl hlive.2 (decode_frame_se a)
    (by simp) rfl (Chip.onSE_of_ready rfl ha hsec) (.inl (show codeEraseSector ≠ codeWrite by decide))
  refine ⟨_, runSteps_trans (j := 5) (k := 10) hready (runSteps_trans (j := 3) (k := 7) hen
    (runSteps_trans (j := 5) (k := 2) hhead hdone)), rfl, rfl, rfl, rfl, fun x => ?_, ?_⟩
  · have hread := Mem.read_erase (sectorBase s.params a) (sectorBase s.params a + s.params.sectorSize) x hm
    simp only [mem_sector_iff a x hsec] at hread
    exact hread
  · simp [u, State.commanded, State.addressed, State.enabled, State.ready, State.polledIdle, State.begun, header, opcRDSR,
      opcWREN, opcSE, addrByte2, addrByte1, addrByte0]

end Sys2Proof.Machine
end

section

namespace Sys2Proof.Machine

open Sys2Proof.Claims

/-! ## Frames read off the log (R10) -/

/-- Inside a frame the bytes sent add up. -/
theorem bytesToClose_append {xs : List Event} (h : ∀ e ∈ xs, e ≠ .sel ∧ e ≠ .des) (rest : List Event) :
    bytesToClose (xs ++ rest) = bytesToClose xs ++ bytesToClose rest := by
  induction xs with
  | nil => rfl
  | cons e xs ih =>
    have hxs := ih fun e he => h e (List.mem_cons_of_mem _ he)
    obtain ⟨hsel, hdes⟩ := h e List.mem_cons_self
    cases e with
    | sel => exact absurd rfl hsel
    | des => exact absurd rfl hdes
    | xfer t r => simp [bytesToClose, hxs]
    | taken b | pushed b | done => simpa [bytesToClose] using hxs

/-- Inside a frame no other begins. -/
theorem framesOf_append {xs : List Event} (h : ∀ e ∈ xs, e ≠ .sel ∧ e ≠ .des) (rest : List Event) :
    framesOf (xs ++ rest) = framesOf rest := by
  induction xs with
  | nil => rfl
  | cons e xs ih =>
    have hxs := ih fun e he => h e (List.mem_cons_of_mem _ he)
    obtain ⟨hsel, hdes⟩ := h e List.mem_cons_self
    cases e with
    | sel => exact absurd rfl hsel
    | des => exact absurd rfl hdes
    | xfer t r | taken b | pushed b | done => simpa [framesOf] using hxs

/-- One closed frame. -/
theorem framesOf_frame {xs : List Event} (h : ∀ e ∈ xs, e ≠ .sel ∧ e ≠ .des) (rest : List Event) :
    framesOf (.sel :: xs ++ .des :: rest) = bytesToClose xs :: framesOf rest := by
  have hclose : bytesToClose (.des :: rest) = [] := rfl
  rw [List.cons_append, framesOf, bytesToClose_append h, hclose, List.append_nil, framesOf_append h]
  rfl

/-- What a stretch of a run adds to the log: closed frames, bytes taken and delivered, completed requests (R279). -/
structure Adds (s t : State) (frames : List (List Byte)) (taken pushed : List Byte) (dones : Nat) : Prop where
  log : ∃ ev, t.events = s.events ++ ev ∧ ∀ rest, framesOf (ev ++ rest) = frames ++ framesOf rest
  taken : t.dataTaken = s.dataTaken ++ taken
  pushed : t.readData = s.readData ++ pushed
  dones : t.completions = s.completions + dones

theorem Adds.trans {s t u : State} {f g : List (List Byte)} {a b p q : List Byte} {m n : Nat} (h : Adds s t f a p m)
    (h' : Adds t u g b q n) : Adds s u (f ++ g) (a ++ b) (p ++ q) (m + n) := by
  obtain ⟨⟨e, he, hf⟩, ha, hp, hm⟩ := h
  obtain ⟨⟨e', he', hg⟩, hb, hq, hn⟩ := h'
  refine ⟨⟨e ++ e', by rw [he', he, List.append_assoc], fun rest => ?_⟩, ?_, ?_, ?_⟩
  · rw [List.append_assoc, hf, hg, List.append_assoc]
  · rw [hb, ha, List.append_assoc]
  · rw [hq, hp, List.append_assoc]
  · rw [hn, hm, Nat.add_assoc]

/-- A silent stretch. -/
theorem Adds.of_silent {s t : State} (h : t.events = s.events) : Adds s t [] [] [] 0 :=
  ⟨⟨[], by simp [h], fun _ => rfl⟩, by simp [State.dataTaken, h], by simp [State.readData, h], by simp [State.completions, h]⟩

theorem Adds.refl (s : State) : Adds s s [] [] [] 0 := Adds.of_silent rfl

/-- The frames of a stretch, as a list of its own. -/
theorem Adds.frames {s t : State} {f : List (List Byte)} {a p : List Byte} {n : Nat} (h : Adds s t f a p n) :
    ∃ ev, t.events = s.events ++ ev ∧ framesOf ev = f := by
  obtain ⟨ev, he, hf⟩ := h.log
  exact ⟨ev, he, by simpa [framesOf] using hf []⟩

/-- The bytes a stretch of the log shows as taken, as delivered, and the requests it shows as completed (R279). -/
def takenBytes (ev : List Event) : List Byte := State.dataTaken { State.reset with events := ev }
def pushedBytes (ev : List Event) : List Byte := State.readData { State.reset with events := ev }
def doneCount (ev : List Event) : Nat := State.completions { State.reset with events := ev }

@[simp] theorem takenBytes_append (ev ev' : List Event) : takenBytes (ev ++ ev') = takenBytes ev ++ takenBytes ev' := by
  simp [takenBytes, State.dataTaken]

@[simp] theorem pushedBytes_append (ev ev' : List Event) : pushedBytes (ev ++ ev') = pushedBytes ev ++ pushedBytes ev' := by
  simp [pushedBytes, State.readData]

@[simp] theorem doneCount_append (ev ev' : List Event) : doneCount (ev ++ ev') = doneCount ev + doneCount ev' := by
  simp [doneCount, State.completions]

/-- One closed frame adds itself and what its events show. -/
theorem Adds.of_frame {s t : State} {body : List Event} (h : ∀ e ∈ body, e ≠ .sel ∧ e ≠ .des)
    (he : t.events = s.events ++ (.sel :: body ++ [.des])) :
    Adds s t [bytesToClose body] (takenBytes body) (pushedBytes body) (doneCount body) := by
  refine ⟨⟨_, he, fun rest => ?_⟩, ?_, ?_, ?_⟩
  · rw [List.append_assoc]
    exact framesOf_frame h rest
  · have ht : takenBytes (.sel :: body ++ [.des]) = takenBytes body := by
      rw [takenBytes_append]; exact List.append_nil _
    exact ht ▸ State.dataTaken_append he
  · have hp : pushedBytes (.sel :: body ++ [.des]) = pushedBytes body := by
      rw [pushedBytes_append]; exact List.append_nil _
    exact hp ▸ State.readData_append he
  · have hd : doneCount (.sel :: body ++ [.des]) = doneCount body := by
      rw [doneCount_append]; exact Nat.add_zero _
    exact hd ▸ State.completions_append he

/-- FIN adds one completed request. -/
theorem Adds.of_done {s t : State} (he : t.events = s.events ++ [.done]) : Adds s t [] [] [] 1 :=
  ⟨⟨_, he, fun _ => rfl⟩, State.dataTaken_append he, State.readData_append he, State.completions_append he⟩

/-- Bytes sent whose answer is discarded are the frame's, and nothing else. -/
theorem outs_facts (l : List Byte) : (∀ e ∈ l.map out, e ≠ .sel ∧ e ≠ .des) ∧ bytesToClose (l.map out) = l ∧
    takenBytes (l.map out) = [] ∧ pushedBytes (l.map out) = [] ∧ doneCount (l.map out) = 0 := by
  induction l with
  | nil => exact ⟨by simp, rfl, rfl, rfl, rfl⟩
  | cons b l ih =>
    obtain ⟨_, hb, ht, hp, hd⟩ := ih
    refine ⟨by simp [out], congrArg (b :: ·) hb, ht, hp, hd⟩

/-! ## The data of a READ (R151, R152) -/

/-- The bytes of the array from `a` on. -/
def Mem.bytes (m : Mem) (a n : Nat) : List Byte := (List.range' a n).map m.read

@[simp] theorem Mem.bytes_length (m : Mem) (a n : Nat) : (m.bytes a n).length = n := by simp [Mem.bytes]

/-- The events of the bytes `bs` received by sending `d` for each. -/
def readEvents (d : Byte) (bs : List Byte) : List Event := bs.flatMap fun b => [.xfer d (some b), .pushed b]

theorem readEvents_facts (d : Byte) (bs : List Byte) : (∀ e ∈ readEvents d bs, e ≠ .sel ∧ e ≠ .des) ∧
    bytesToClose (readEvents d bs) = List.replicate bs.length d ∧ takenBytes (readEvents d bs) = [] ∧
    pushedBytes (readEvents d bs) = bs ∧ doneCount (readEvents d bs) = 0 := by
  induction bs with
  | nil => exact ⟨by simp [readEvents], rfl, rfl, rfl, rfl⟩
  | cons b bs ih =>
    obtain ⟨hn, hb, ht, hp, hd⟩ := ih
    refine ⟨?_, congrArg (d :: ·) hb, ht, congrArg (b :: ·) hp, hd⟩
    intro e he
    simp only [readEvents, List.flatMap_cons, List.mem_append, List.mem_cons, List.not_mem_nil, or_false] at he
    rcases he with (rfl | rfl) | he
    · simp
    · simp
    · exact hn e he

/-- `s` after the bytes `bs` of a READ are received, the chip being idle. -/
def State.dataReads (s : State) (bs : List Byte) : State :=
  { s with
    seq := .cDes
    curAddr := s.curAddr + BitVec.ofNat 24 bs.length
    remaining := 0#24
    frame := s.frame ++ bs.map fun b => { tx := s.params.dummyTx, rx := some b }
    draw := s.draw + bs.length
    events := s.events ++ readEvents s.params.dummyTx bs }

/-- Addresses advance byte by byte. -/
theorem Addr.add_one_add (a : Addr) (n : Nat) : a + 1#24 + BitVec.ofNat 24 n = a + BitVec.ofNat 24 (n + 1) := by
  rw [BitVec.add_assoc, Nat.add_comm n 1, BitVec.ofNat_add]

theorem State.dataReads_cons {s : State} (ho : s.outstanding = none) (b : Byte) (bs : List Byte) :
    (State.dataRead { s with draw := s.draw + 1 } b).dataReads bs = s.dataReads (b :: bs) := by
  simp [State.dataReads, State.dataRead, readEvents, State.goTo, State.countByte, State.push, State.observe, State.exchange, ho,
    Addr.add_one_add, Nat.add_assoc, Nat.add_comm 1]

/-- From where the header leads, one step a byte delivers the bytes of the array (R151, R152, R216). -/
theorem runSteps_dataReads (m : Nat) {s : State} {a : Addr} {data : List Byte} (hr : s.rst = false)
    (hs : s.seq = if s.remaining = 0#24 then .cDes else .cRd) (ho : s.outstanding = none) (hl : s.transport ≠ .stalled)
    (ht : s.transport ≠ .unfaithful) (hw : s.chip.wip = false) (hsent : s.sent = header opcREAD a ++ data)
    (hm : s.remaining.toNat = m) (hin : a.toNat + data.length + m ≤ s.params.capacity) :
    runSteps m s = .next (s.dataReads (s.chip.mem.bytes (a.toNat + data.length) m)) := by
  induction m generalizing s data with
  | zero =>
    have h0 : s.remaining = 0#24 := BitVec.eq_of_toNat_eq hm
    rw [if_pos h0] at hs
    obtain ⟨⟩ := s
    simp_all [runSteps, State.dataReads, Mem.bytes, readEvents]
  | succ m ih =>
    have hne : s.remaining ≠ 0#24 := Len.ne_zero_iff.mpr (by omega)
    rw [if_neg hne] at hs
    have htick : s.tick = { s with draw := s.draw + 1 } := by rw [State.tick_eq, State.after_of_idle 1 hw]
    have hb : s.tick.received = s.chip.mem.read (a.toNat + data.length) :=
      State.received_data (s := s.tick) ht hsent (State.tick_wip_of_idle hw) (by simp; omega)
    rw [runSteps_of_step (step_dataRead hr hs hl), hb, htick]
    let u : State := { s with draw := s.draw + 1 }
    let b := s.chip.mem.read (a.toNat + data.length)
    have hrem : (s.remaining - 1#24).toNat = m := by rw [Len.toNat_pred hne]; omega
    have hsent' : (u.dataRead b).sent = header opcREAD a ++ (data ++ [s.params.dummyTx]) := by
      have hx : (u.dataRead b).sent = s.sent ++ [s.params.dummyTx] := State.sent_exchange u _ _
      rw [hx, hsent, List.append_assoc]
    have hrun := ih (s := u.dataRead b) hr rfl rfl hl ht hw hsent' hrem
      (by rw [List.length_append, List.length_singleton]; exact (by omega : a.toNat + (data.length + 1) + m ≤ s.params.capacity))
    rw [hrun, State.dataReads_cons ho]
    congr 2
    rw [Mem.bytes, Mem.bytes, List.range'_succ, List.map_cons, List.length_append]
    rfl

/-- `s`, in C_SEL, after the read-data frame and the end of the request, the chip being idle. -/
def State.readDone (s : State) : State :=
  ((s.addressed opcREAD (if s.remaining = 0#24 then .cDes else .cRd)).dataReads
    (s.chip.mem.bytes s.curAddr.toNat s.remaining.toNat)).commanded s.chip

/-- A READ in contract whose poll has read idle ends in `len + 7` steps (R150 to R153). -/
theorem runSteps_readDone {s : State} (hr : s.rst = false) (hs : s.seq = .cSel) (ho : s.op = codeRead)
    (hl : s.transport ≠ .stalled) (ht : s.transport ≠ .unfaithful) (hw : s.chip.wip = false)
    (ha : s.curAddr.toNat < s.params.capacity) (hin : s.curAddr.toNat + s.remaining.toNat ≤ s.params.capacity) :
    runSteps (s.remaining.toNat + 7) s = .next s.readDone := by
  let q : Seq := if s.remaining = 0#24 then .cDes else .cRd
  let v := (s.addressed opcREAD q).dataReads (s.chip.mem.bytes s.curAddr.toNat s.remaining.toNat)
  have hhead : runSteps 5 s = .next (s.addressed opcREAD q) :=
    runSteps_addressed hr hs hl (by rw [ho]; rfl) (by rw [ho]; decide)
      (by simp [afterHeader, ho, codeRead, codeEraseSector, q]) hw
  have hsent : (s.addressed opcREAD q).sent = header opcREAD s.curAddr ++ [] := rfl
  have hdata : runSteps s.remaining.toNat (s.addressed opcREAD q) = .next v := by
    have h := runSteps_dataReads s.remaining.toNat (s := s.addressed opcREAD q) hr rfl rfl hl ht hw hsent rfl
      (by rw [List.length_nil, Nat.add_zero]; exact hin)
    rwa [List.length_nil, Nat.add_zero] at h
  have hv : v.sent = header opcREAD s.curAddr ++ List.replicate s.remaining.toNat s.params.dummyTx := by
    simp [v, State.sent, State.dataReads, State.addressed, header, Function.comp_def]
  have hd : decode (.frame v.sent) = .ok (.readData s.curAddr s.remaining.toNat) := by
    rw [hv, decode_frame_readData, List.length_replicate]
  have hrange : rangeInContract s.params s.curAddr s.remaining.toNat = true := by simp [rangeInContract, ha, hin]
  have hdone : runSteps 2 v = .next (v.commanded s.chip) :=
    runSteps_commanded (s := v) (i := .readData s.curAddr s.remaining.toNat) (c := s.chip) hr rfl ht hd (by simp) hw
      (Chip.onRead_inside hw hrange) (.inr rfl)
  rw [show s.remaining.toNat + 7 = 5 + (s.remaining.toNat + 2) by omega]
  exact runSteps_trans (j := 5) (k := s.remaining.toNat + 2) hhead (runSteps_trans hdata hdone)

/-- What the read-data frame adds (R113, R153). -/
theorem State.adds_readDone (s : State) : Adds s s.readDone
    [header opcREAD s.curAddr ++ List.replicate s.remaining.toNat s.params.dummyTx] []
    (s.chip.mem.bytes s.curAddr.toNat s.remaining.toNat) 1 := by
  obtain ⟨hn, hb, ht, hp, hd⟩ := outs_facts (header opcREAD s.curAddr)
  obtain ⟨hn', hb', ht', hp', hd'⟩ :=
    readEvents_facts s.params.dummyTx (s.chip.mem.bytes s.curAddr.toNat s.remaining.toNat)
  let body := (header opcREAD s.curAddr).map out ++
    readEvents s.params.dummyTx (s.chip.mem.bytes s.curAddr.toNat s.remaining.toNat)
  have hbody : ∀ e ∈ body, e ≠ .sel ∧ e ≠ .des := fun e he => (List.mem_append.mp he).elim (hn e) (hn' e)
  have hframe := Adds.of_frame (s := s) (t := { s with events := s.events ++ (.sel :: body ++ [.des]) }) hbody rfl
  rw [bytesToClose_append hn, takenBytes_append, pushedBytes_append, doneCount_append, hb, hb', ht, ht', hp, hp', hd, hd',
    Mem.bytes_length] at hframe
  have hdone : s.readDone.events = s.events ++ (.sel :: body ++ [.des]) ++ [.done] := by
    simp [State.readDone, State.commanded, State.dataReads, State.addressed, body]
  simpa using hframe.trans (Adds.of_done (t := s.readDone) hdone)

/-- What a poll adds (R111). -/
theorem Adds.of_poll {s t : State} {d st : Byte}
    (he : t.events = s.events ++ [.sel, out opcRDSR, .xfer d (some st), .des]) : Adds s t [[opcRDSR, d]] [] [] 0 :=
  Adds.of_frame (body := [out opcRDSR, .xfer d (some st)]) (by simp [out]) he

/-- Settles O55: accepted, polled, and the read of `runSteps_readDone`. -/
theorem readDeliversTheArray : Obligations.ReadDeliversTheArray := by
  intro s a n rest hr hs hq ht hw ha hin
  have hword : wordInContract s.params (packRequest codeRead a n) = true :=
    wordInContract_pack (by decide) (fun _ => by simp [rangeInContract, ha, hin]) fun h => absurd h (by decide)
  obtain ⟨st, hst, hready⟩ := runSteps_ready hr hs hq ht hword (by decide) (.inl (by decide)) hw
  let u := s.ready codeRead a n rest st
  have hu : u.transport = .faithful := ht
  have hread : runSteps (n.toNat + 7) u = .next u.readDone :=
    runSteps_readDone (s := u) hr rfl rfl (by simp [hu]) (by simp [hu]) hw ha hin
  have hadds : Adds s u [[opcRDSR, s.params.dummyTx]] [] [] 0 := Adds.of_poll rfl
  have hall := hadds.trans u.adds_readDone
  obtain ⟨ev, hev, hframes⟩ := hall.frames
  refine ⟨u.readDone, ?_, rfl, rfl, ?_, rfl, hall.dones, ?_, rfl, ?_, ev, hev, hframes⟩
  · rw [show n.toNat + 12 = 5 + (n.toNat + 7) by omega]
    exact runSteps_trans hready hread
  · exact Chip.after_of_idle _ _ _ hw
  · show a + BitVec.ofNat 24 (s.chip.mem.bytes a.toNat n.toNat).length = a + n
    rw [Mem.bytes_length, BitVec.ofNat_toNat, BitVec.setWidth_eq]
  · rw [hall.pushed]
    simp [u, State.ready, State.polledIdle, State.begun, Mem.bytes, List.range'_eq_map_range]

end Sys2Proof.Machine
end

section

namespace Sys2Proof.Machine

open Sys2Proof.Claims

/-! ## Polls that read busy (R131, R133, R241) -/

/-- From P_SEL in `s`, `m` polls that read busy lead to P_SEL in `t`. -/
structure Repolled (s t : State) (m : Nat) : Prop where
  run : runSteps (4 * m) s = .next t
  same : t = { s.after (4 * m) with
    srShadow := t.srShadow
    btSelect := t.btSelect
    pollCnt := if s.params.pollLimit.isSome then s.pollCnt + m else s.pollCnt
    outstanding := t.outstanding
    frame := t.frame
    events := t.events }
  adds : Adds s t (List.replicate m [opcRDSR, s.params.dummyTx]) [] [] 0

theorem Repolled.refl (s : State) : Repolled s s 0 := by
  refine ⟨rfl, ?_, Adds.refl s⟩
  simp [State.after_zero]

theorem Repolled.trans {s t u : State} {j k : Nat} (h : Repolled s t j) (h' : Repolled t u k) : Repolled s u (j + k) := by
  obtain ⟨hrun, hsame, hadds⟩ := h
  obtain ⟨hrun', hsame', hadds'⟩ := h'
  have hpar : t.params = s.params := (congrArg State.params hsame :)
  refine ⟨?_, ?_, ?_⟩
  · rw [Nat.mul_add]
    exact runSteps_trans hrun hrun'
  · rw [hsame] at hsame'
    simp only [State.after, Chip.after_after] at hsame' ⊢
    refine hsame'.trans ?_
    by_cases hp : s.params.pollLimit.isSome = true <;> simp [hp, Nat.mul_add, Nat.add_assoc]
  · have hall := hadds.trans hadds'
    rwa [hpar, ← List.replicate_add] at hall

/-- The chip goes its own way while it is polled. -/
theorem Repolled.after {s t : State} {m : Nat} (h : Repolled s t m) (k : Nat) :
    (t.after k).chip = (s.after (4 * m + k)).chip := by
  rw [h.same]
  exact Chip.after_after _ _ _ _ _

/-- One poll that reads busy below the limit. -/
theorem Repolled.poll {s : State} (hr : s.rst = false) (hs : s.seq = .pSel) (hl : s.transport ≠ .stalled)
    (ht : s.transport ≠ .unfaithful) (hw : (s.after 3).chip.wip = true)
    (hlim : s.params.pollLimit ≠ some (s.pollCnt + 1)) : Repolled s (s.polled.goTo .pSel) 1 := by
  have hbelow : s.polled.params.pollLimit ≠ some s.polled.pollCnt := by
    rw [State.polled_eq]
    cases hp : s.params.pollLimit <;> simp_all [State.after]
  refine ⟨?_, ?_, Adds.of_poll (st := s.polled.srShadow) ?_⟩
  · rw [runSteps_four_of_pSel hr hs hl ht]
    exact afterPDes_of_busy ((State.wipSeen_polled ht).trans hw) hbelow
  · rw [State.polled_eq, State.goTo, ← hs]
    rfl
  · exact (congrArg State.events s.polled_eq :)

/-- As long as the chip is busy and the limit is not reached, the block polls. -/
theorem exists_repolled {s : State} (hr : s.rst = false) (hs : s.seq = .pSel) (hl : s.transport ≠ .stalled)
    (ht : s.transport ≠ .unfaithful) (m : Nat) (hw : ∀ i < m, (s.after (4 * i + 3)).chip.wip = true)
    (hlim : ∀ i < m, s.params.pollLimit ≠ some (s.pollCnt + i + 1)) : ∃ t, Repolled s t m := by
  induction m with
  | zero => exact ⟨s, Repolled.refl s⟩
  | succ m ih =>
    obtain ⟨t, h⟩ := ih (fun i hi => hw i (by omega)) fun i hi => hlim i (by omega)
    have hbusy : (t.after 3).chip.wip = true := by rw [h.after]; exact hw m (by omega)
    have hbelow : t.params.pollLimit ≠ some (t.pollCnt + 1) := by
      have hm := hlim m (by omega)
      rw [h.same]
      cases hp : s.params.pollLimit <;> simp_all [State.after]
    exact ⟨_, h.trans (Repolled.poll (by rw [h.same]; exact hr) (by rw [h.same]; exact hs) (by rw [h.same]; exact hl)
      (by rw [h.same]; exact ht) hbusy hbelow)⟩

/-- Settles O59: as many polls as there is time for. -/
theorem hungChipIsPolledForEver : Obligations.HungChipIsPolledForEver := by
  intro m s hr hs ht hp hw hlim
  obtain ⟨t, h⟩ := exists_repolled hr hs (by simp [ht]) (by simp [ht]) m
    (fun i _ => by rw [State.after_of_never _ hp]; exact hw) fun i _ => by simp [hlim]
  have hsame := h.same
  rw [State.after_of_never _ hp] at hsame
  refine ⟨t, h.run, ?_⟩
  have hseq : t.seq = .pSel := (congrArg State.seq hsame :).trans hs
  exact ⟨hseq, by simp [State.busy, hseq], h.adds.dones, (congrArg State.requests hsame :), (congrArg State.chip hsame :),
    ⟨(congrArg State.op hsame :), (congrArg State.curAddr hsame :), (congrArg State.remaining hsame :),
      (congrArg State.chunk hsame :)⟩, h.adds.frames⟩

/-- `s`, in P_SEL, after the last poll of the bounded variant read busy and the request was given up (R246). -/
theorem runSteps_gaveUp {s : State} (hr : s.rst = false) (hs : s.seq = .pSel) (hl : s.transport ≠ .stalled)
    (ht : s.transport ≠ .unfaithful) (hp : s.pace = .never) (hw : s.chip.wip = true)
    (hlim : s.params.pollLimit = some (s.pollCnt + 1)) :
    ∃ t, runSteps 5 s = .next t ∧ t.seq = .idle ∧ t.timeoutErr = true ∧ t.requests = s.requests ∧ t.wdata = s.wdata ∧
      t.chip = s.chip ∧ Adds s t [[opcRDSR, s.params.dummyTx]] [] [] 1 := by
  have hat : s.polled.params.pollLimit = some s.polled.pollCnt := by
    rw [State.polled_eq]
    simp [State.after, hlim]
  have hseen : s.polled.wipSeen = true := by rw [State.wipSeen_polled ht, State.after_of_never 3 hp]; exact hw
  have hpolled := s.polled_eq
  rw [State.after_of_never 4 hp] at hpolled
  have hpoll : runSteps 4 s = .next s.polled.raisePollTimeout := by
    rw [runSteps_four_of_pSel hr hs hl ht, afterPDes_of_limit hseen hat]
  have hrst : s.polled.raisePollTimeout.rst = false := by rw [hpolled]; exact hr
  have hpace : s.polled.raisePollTimeout.pace = .never := by rw [hpolled]; exact hp
  have hfin := step_fin hrst (show s.polled.raisePollTimeout.seq = .fin from rfl)
  rw [State.tick_eq, State.after_of_never 1 hpace] at hfin
  have hadds : Adds s s.polled.raisePollTimeout [[opcRDSR, s.params.dummyTx]] [] [] 0 :=
    Adds.of_poll (st := s.polled.srShadow) (congrArg State.events s.polled_eq :)
  exact ⟨_, runSteps_trans (j := 4) (k := 1) hpoll (runSteps_one hfin), rfl, rfl, (congrArg State.requests hpolled :),
    (congrArg State.wdata hpolled :), (congrArg State.chip hpolled :), hadds.trans (Adds.of_done rfl)⟩

/-- Settles O60: accepted, polls up to the limit, given up. -/
theorem boundedPollGivesUpAtItsLimit : Obligations.BoundedPollGivesUpAtItsLimit := by
  intro s lim w rest hr hs hq hl ht hp hw hlim h1 hin hcode hpolls
  have hwd : packRequest (reqCode w) (reqAddr w) (reqLen w) = w := packRequest_fields w
  have hacc := step_accepted (c := reqCode w) (a := reqAddr w) (n := reqLen w) hr hs (by rw [hwd]; exact hq) (by rw [hwd]; exact hin)
    hcode (Classical.or_iff_not_imp_left.mpr fun hc => hpolls (Classical.not_not.mp hc))
  let u := s.accepted (reqCode w) (reqAddr w) (reqLen w) rest
  have hup : u.pace = .never := hp
  have hchip : u.chip = s.chip := by
    show (s.after 1).chip = s.chip
    rw [State.after_of_never 1 hp]
  obtain ⟨v, h⟩ := exists_repolled (s := u) hr rfl hl ht (lim - 1)
    (fun i _ => by rw [State.after_of_never _ hup]; exact hchip ▸ hw)
    fun i hi => by
      show s.params.pollLimit ≠ some (0 + i + 1)
      rw [hlim]; simp only [ne_eq, Option.some.injEq]; omega
  have hsame := h.same
  rw [State.after_of_never _ hup] at hsame
  have hvlim : v.params.pollLimit = some (v.pollCnt + 1) := by
    have hcnt : v.pollCnt = 0 + (lim - 1) := by
      refine (congrArg State.pollCnt hsame :).trans (if_pos ?_)
      show s.params.pollLimit.isSome = true
      rw [hlim]; rfl
    rw [hcnt, (congrArg State.params hsame :), Nat.zero_add, Nat.sub_add_cancel h1]
    exact hlim
  obtain ⟨t, hrun, hseq, htime, hreq, hwdata, htchip, hadds⟩ := runSteps_gaveUp (s := v) ((congrArg State.rst hsame :).trans hr)
    (congrArg State.seq hsame :) (by rw [(congrArg State.transport hsame :)]; exact hl)
    (by rw [(congrArg State.transport hsame :)]; exact ht) ((congrArg State.pace hsame :).trans hp)
    (by rw [(congrArg State.chip hsame :), hchip]; exact hw) hvlim
  have hstart : Adds s u [] [] [] 0 := Adds.of_silent rfl
  have hall := (hstart.trans h.adds).trans hadds
  have hpar : v.params = s.params := (congrArg State.params hsame :)
  obtain ⟨ev, hev, hframes⟩ := hall.frames
  refine ⟨t, ?_, hseq, htime, hreq.trans (congrArg State.requests hsame :), hall.dones, ?_, ?_, ?_, ev, hev, ?_⟩
  · rw [show 4 * lim + 2 = 1 + (4 * (lim - 1) + 5) by omega]
    exact runSteps_trans (runSteps_one hacc) (runSteps_trans h.run hrun)
  · rw [hall.pushed]; exact List.append_nil _
  · exact hwdata.trans (congrArg State.wdata hsame :)
  · exact (htchip.trans (congrArg State.chip hsame :)).trans hchip
  · have hupar : u.params = s.params := rfl
    rw [hframes, hpar, hupar, List.nil_append, ← List.replicate_succ', Nat.sub_add_cancel h1]
    rfl

end Sys2Proof.Machine
end

section

namespace Sys2Proof.Machine

open Sys2Proof.Claims

/-! ## Programming in pieces (R171, R225) -/

/-- Programming `d` and then `d'` behind it is programming both. -/
theorem programmed_append {m m' : Mem} {a : Nat} {d : List Byte} (h : ∀ x, m'.read x = programmed m a d x) (d' : List Byte)
    (x : Nat) : programmed m' (a + d.length) d' x = programmed m a (d ++ d') x := by
  unfold programmed
  by_cases hx : a + d.length ≤ x
  · have hnone : d[x - a]? = none := List.getElem?_eq_none (by omega)
    have hold : m'.read x = m.read x := by
      rw [h x, programmed, hnone]
      split <;> rfl
    rw [if_pos hx, if_pos (by omega), List.getElem?_append_right (by omega), Nat.sub_sub, hold]
  · rw [if_neg hx, h x, programmed]
    by_cases ha : a ≤ x
    · rw [if_pos ha, if_pos ha, List.getElem?_append_left (by omega)]
    · rw [if_neg ha, if_neg ha]

/-- A page-program frame that the chip takes: it is ready, and the frame stays in its page and in the array (R217). -/
theorem Chip.reaction_pp {p : Params} {a : Addr} {d : List Byte} {c : Chip} (hc : c.ready = true) (hd : d ≠ [])
    (hm : Mem.wf p.capacity c.mem = true) (hfit : pageOffset a + d.length ≤ pageSize)
    (hin : a.toNat + d.length ≤ p.capacity) :
    c.reaction p (.pp a d) = some (c.accept (c.mem.program a 0 d)) ∧
      ∀ x, (c.mem.program a 0 d).read x = programmed c.mem a.toNat d x := by
  have htgt : ∀ k, k < d.length → programTarget a k < p.capacity := fun k hk => by
    rw [programTarget_of_fits (by omega)]
    omega
  exact ⟨Chip.onPP_of_ready hc hd (by omega) htgt, Mem.read_program_of_fits hm hfit htgt⟩

/-! ## A WRITE in progress, by whether its page-program frame has begun (R163, R164, R171) -/

section

variable {m : Mem} {a : Nat} {data rest : List Byte} {s t : State} {j k : Nat}

/-- A WRITE of which `k` bytes are done, with no data in an open frame. -/
structure State.Between (m : Mem) (a : Nat) (data rest : List Byte) (s : State) (k : Nat) : Prop where
  op : s.op = codeWrite
  seq : s.seq ∉ [Seq.idle, .fin, .cWr, .cDes]
  left : k < data.length
  addr : s.curAddr = BitVec.ofNat 24 (a + k)
  count : s.remaining.toNat + k = data.length
  wdata : s.wdata = data.drop k ++ rest
  mem : ∀ x, s.chip.mem.read x = programmed m a (data.take k) x

/-- A WRITE of which `j` bytes are done and those up to `k` are in the open page-program frame. -/
structure State.Sending (m : Mem) (a : Nat) (data rest : List Byte) (s : State) (j k : Nat) : Prop where
  op : s.op = codeWrite
  seq : s.seq = .cWr ∨ s.seq = .cDes
  le : j ≤ k
  left : k ≤ data.length
  addr : s.curAddr = BitVec.ofNat 24 (a + k)
  count : s.remaining.toNat + k = data.length
  offered : s.offered = data.drop k ++ rest
  mem : ∀ x, s.chip.mem.read x = programmed m a (data.take j) x
  sent : s.sent = header opcPP (BitVec.ofNat 24 (a + j)) ++ (data.take k).drop j
  some : s.seq = .cDes → j < k

theorem State.offered_of_seq (h : s.seq ≠ .cWr) : s.offered = s.wdata := by
  unfold State.offered
  cases s.outstanding <;> simp [h]

theorem State.Between.writing (h : s.Between m a data rest k) : s.Writing m a data rest k k := by
  have hseq := h.seq
  simp only [List.mem_cons, List.not_mem_nil, or_false, not_or] at hseq
  obtain ⟨hi, hf, hw, hd⟩ := hseq
  refine ⟨h.op, hi, hf, Nat.le_refl k, h.left.le, h.addr, h.count, ?_, h.mem, ?_⟩
  · rw [State.offered_of_seq hw, h.wdata]
  · rw [if_neg (by simp [hw, hd])]
    exact ⟨rfl, h.left⟩

theorem State.Sending.writing (h : s.Sending m a data rest j k) : s.Writing m a data rest j k := by
  refine ⟨h.op, ?_, ?_, h.le, h.left, h.addr, h.count, h.offered, h.mem, ?_⟩
  · rcases h.seq with hs | hs <;> simp [hs]
  · rcases h.seq with hs | hs <;> simp [hs]
  · rw [if_pos h.seq]
    exact ⟨h.sent, h.some⟩

theorem State.Writing.cases (h : s.Writing m a data rest j k) : s.Between m a data rest k ∨ s.Sending m a data rest j k := by
  obtain ⟨ho, hi, hf, hjk, hk, ha, hn, hoff, hm, hif⟩ := h
  by_cases hs : s.seq = .cWr ∨ s.seq = .cDes
  · rw [if_pos hs] at hif
    exact .inr ⟨ho, hs, hjk, hk, ha, hn, hoff, hm, hif.1, hif.2⟩
  · rw [if_neg hs] at hif
    obtain ⟨rfl, hlt⟩ := hif
    obtain ⟨hw, hd⟩ := not_or.mp hs
    exact .inl ⟨ho, by simp [hi, hf, hw, hd], hlt, ha, hn, State.offered_of_seq hw ▸ hoff, hm⟩

/-- The environment's part of a step does not touch a WRITE in progress. -/
theorem State.Writing.tick (h : s.Writing m a data rest j k) : s.tick.Writing m a data rest j k := h

theorem State.Sending.tick (h : s.Sending m a data rest j k) : s.tick.Sending m a data rest j k :=
  ⟨h.op, h.seq, h.le, h.left, h.addr, h.count, h.offered, h.mem, h.sent, h.some⟩

/-- What keeps the registers, the data offered and the array keeps a WRITE between its frames. -/
theorem State.Between.of_same (h : s.Between m a data rest k) (hs : t.seq ∉ [Seq.idle, .fin, .cWr, .cDes])
    (hsame : t.op = s.op ∧ t.curAddr = s.curAddr ∧ t.remaining = s.remaining ∧ t.wdata = s.wdata)
    (hm : t.chip.mem = s.chip.mem) : t.Between m a data rest k := by
  obtain ⟨ho, ha, hn, hw⟩ := hsame
  exact ⟨ho.trans h.op, hs, h.left, ha.trans h.addr, hn ▸ h.count, hw.trans h.wdata, by rw [hm]; exact h.mem⟩

/-- The header of a page program leads to its data, none of which is sent yet. -/
theorem State.Between.header_sent {q : Seq} (h : s.Between m a data rest k) (hinv : s.Inv) (hs : s.seq = .cA0)
    (hq : afterHeader s = some q) :
    ((s.exchange (addrByte0 s.curAddr) none).goTo q).Sending m a data rest k k := by
  have hcnt := hinv.count
  have hf := hinv.frame
  simp only [State.CountOk, hs] at hcnt
  simp only [State.FrameOk, hs, h.op] at hf
  obtain ⟨_, hchunk⟩ := hcnt h.op
  obtain ⟨opc, hopc, hsent⟩ := hf
  have hopc' : opcPP = opc := Option.some.inj hopc
  have hrem : s.remaining ≠ 0#24 := Len.ne_zero_iff.mpr (by have := h.left; have := h.count; omega)
  have hne : s.chunk ≠ 0#9 := by
    have := chunkSize_pos (a := s.curAddr) hrem
    rintro hc
    simp [hc] at hchunk
    omega
  have hto : q = .cWr := by
    rcases afterHeader_cases hq with ⟨ho, _⟩ | ⟨ho, _, _⟩ | ⟨ho, _, _⟩ | ⟨_, hc, _⟩ | ⟨_, _, hq⟩
    case inr.inr.inr.inl => exact absurd hc hne
    case inr.inr.inr.inr => exact hq
    all_goals exact absurd (h.op.symm.trans ho) (by decide)
  subst hto
  refine ⟨h.op, .inl rfl, Nat.le_refl k, h.left.le, h.addr, h.count, h.wdata, h.mem, ?_, fun hd => by cases hd⟩
  have hall : (State.goTo .cWr (s.exchange (addrByte0 s.curAddr) none)).sent = s.sent ++ [addrByte0 s.curAddr] :=
    State.sent_exchange s _ _
  have hnone : (data.take k).drop k = [] := List.drop_eq_nil_of_le (List.length_take_le k data)
  rw [hall, hsent, ← h.addr, hnone, ← hopc']
  simp [header]

/-- The end of a poll and of the write-enable frame leads on in the WRITE, or the bounded variant gives up. -/
theorem State.Between.closed_frame {c : Chip} (h : s.Between m a data rest k)
    (hs : s.seq = .pDes ∨ s.seq = .wDes) (hc : c.mem = s.chip.mem) (ht : afterInstr (closed s c) = .next t) :
    t.Between m a data rest k ∨
      (s.seq = .pDes ∧ s.wipSeen = true ∧ s.params.pollLimit = some s.pollCnt ∧ t.seq = .fin ∧ t.timeoutErr = true) := by
  have hs' : (closed s c).seq = .pDes ∨ (closed s c).seq = .wDes ∨ (closed s c).seq = .cDes := hs.imp_right .inl
  have ho : (closed s c).op = codeWrite := h.op
  rcases afterInstr_cases ht hs' with ⟨hp, hw, hlim, rfl⟩ | ⟨_, _, _, rfl⟩ | ⟨_, _, ho', _⟩ | ⟨_, _, ho', _⟩ |
    ⟨_, _, _, _, _, rfl⟩ | ⟨_, ho', _⟩ | ⟨_, _, rfl⟩ | ⟨hd, _⟩ | ⟨hd, _⟩
  · exact .inr ⟨hp, hw, hlim, rfl, rfl⟩
  · exact .inl (h.of_same (by simp [State.goTo]) ⟨rfl, rfl, rfl, rfl⟩ hc)
  · exact absurd (ho.symm.trans ho') (by decide)
  · exact absurd (ho.symm.trans ho') (by decide)
  · exact .inl (h.of_same (by simp [State.goTo]) ⟨rfl, rfl, rfl, rfl⟩ hc)
  · exact absurd (ho.symm.trans ho') (by decide)
  · rw [State.loadChunk_eq]
    exact .inl (h.of_same (by simp [State.goTo]) ⟨rfl, rfl, rfl, rfl⟩ hc)
  all_goals
    have hd' : s.seq = .cDes := hd
    rcases hs with hs | hs <;> cases hs.symm.trans hd'

/-- A row from between the frames leads on in the WRITE, or the bounded variant gives up. -/
theorem State.Between.row (h : s.Between m a data rest k) (hinv : s.Inv) (hq : s.ChipQuiet) (ht : s.transport ≠ .unfaithful)
    (hrow : Row s t) : t.Writing m a data rest k k ∨
      (s.seq = .pDes ∧ s.wipSeen = true ∧ s.params.pollLimit = some s.pollCnt ∧ t.seq = .fin ∧ t.timeoutErr = true) := by
  have hseq := h.seq
  simp only [List.mem_cons, List.not_mem_nil, or_false, not_or] at hseq
  obtain ⟨hi, hf, hw, hd⟩ := hseq
  cases hrow with
  | silent hs => exact absurd hs hi
  | accept w rest hs => exact absurd hs hi
  | waits hs => exact absurd hs hw
  | dataHeld d v hl hs => exact absurd hs hw
  | dataSent d v hl hs => exact absurd hs hw
  | done hs => exact absurd hs hf
  | dataRead hl hs =>
    have hop := hinv.op
    simp only [State.OpOk, hs] at hop
    exact absurd (h.op.symm.trans hop) (by decide)
  | held => exact .inl (h.of_same (t := s.hold _) h.seq ⟨rfl, rfl, rfl, rfl⟩ rfl).writing
  | status => exact .inl (h.of_same (t := s.statusRead _) (by simp [State.statusRead]) ⟨rfl, rfl, rfl, rfl⟩ rfl).writing
  | select q hs =>
    refine .inl (h.of_same (t := s.select.goTo q) ?_ ⟨rfl, rfl, rfl, rfl⟩ rfl).writing
    simp only [List.mem_cons, Prod.mk.injEq, List.not_mem_nil, or_false] at hs
    rcases hs with ⟨_, rfl⟩ | ⟨_, rfl⟩ | ⟨_, rfl⟩ <;> simp [State.goTo]
  | sent b q hl hb hnext =>
    rcases sent_cases hb hnext with
      ⟨hs, _, rfl⟩ | ⟨hs, _, rfl⟩ | ⟨_, ho, _, _⟩ | ⟨_, _, _, rfl⟩ | ⟨_, _, rfl⟩ | ⟨_, _, rfl⟩ | ⟨hs, rfl, hq⟩
    case inr.inr.inl => exact absurd (h.op.symm.trans ho) (by decide)
    case inr.inr.inr.inr.inr.inr => exact .inl (h.header_sent hinv hs hq).writing
    all_goals exact .inl (h.of_same (t := (s.exchange b none).goTo _) (by simp) ⟨rfl, rfl, rfl, rfl⟩ rfl).writing
  | close c st t hs hst hx hafter =>
    obtain ⟨i, _, hi, _, hafter⟩ := hinv.close_row hs hx hafter
    have hs' : s.seq = .pDes ∨ s.seq = .wDes := by simpa [hd] using hs
    have hmem := (hi.chip_unchanged hq ht (fun hc => hd hc.1)).1
    exact (h.closed_frame hs' hmem hafter).imp_left State.Between.writing

/-- What is still offered, seen from C_WR. -/
theorem State.Takes.offered {d : Byte} {v : State} (h : s.Takes d v) (hs : s.seq = .cWr) : s.offered = d :: v.wdata := by
  unfold State.offered
  rcases h with ⟨ho, rfl⟩ | ⟨ho, l, hw, rfl⟩
  · simp [ho, hs]
  · simp [ho, hw, State.observe]

/-- Taking a byte changes the data offered and the log alone. -/
theorem State.Takes.eq {d : Byte} {v : State} (h : s.Takes d v) : v = { s with wdata := v.wdata, events := v.events } := by
  rcases h with ⟨_, rfl⟩ | ⟨_, _, _, rfl⟩ <;> rfl

/-- A byte that C_WR has taken and does not get rid of yet stays in line. -/
theorem State.Sending.held {d : Byte} {v : State} (h : s.Sending m a data rest j k) (hs : s.seq = .cWr) (hv : s.Takes d v) :
    (v.hold d).Sending m a data rest j k := by
  have hoff : (v.hold d).offered = s.offered := by
    rw [hv.offered hs, hv.eq]
    simp [State.offered, State.hold, hs]
  rw [hv.eq] at hoff ⊢
  exact ⟨h.op, h.seq, h.le, h.left, h.addr, h.count, hoff.trans h.offered, h.mem, h.sent, h.some⟩

/-- A data byte sent is one more in the open frame. -/
theorem State.Sending.sent_byte {d : Byte} {v : State} (h : s.Sending m a data rest j k) (hinv : s.Inv) (hs : s.seq = .cWr)
    (hv : s.Takes d v) : (v.dataSent d).Sending m a data rest j (k + 1) := by
  have hcnt := hinv.count
  simp only [State.CountOk, hs] at hcnt
  have hcount := h.count
  have hrem : s.remaining ≠ 0#24 := Len.ne_zero_iff.mpr (by omega)
  have hlt : k < data.length := by omega
  have hoff := h.offered
  rw [hv.offered hs, List.drop_eq_getElem_cons hlt, List.cons_append, List.cons.injEq] at hoff
  obtain ⟨hd, hw⟩ := hoff
  have hpred := Len.toNat_pred hrem
  have hle := h.le
  have hsent : (v.dataSent d).sent = v.sent ++ [d] := State.sent_exchange v _ _
  rw [hv.eq] at hsent
  rw [hv.eq]
  have hseq : (State.dataSent { s with wdata := v.wdata, events := v.events } d).seq =
      if s.chunk - 1#9 = 0#9 then .cDes else .cWr := rfl
  refine ⟨h.op, ?_, by omega, hlt, ?_, ?_, hw, h.mem, ?_, fun _ => by omega⟩
  · rw [hseq]; split <;> simp
  · show s.curAddr + 1#24 = _
    rw [h.addr, ← BitVec.ofNat_add, Nat.add_assoc]
  · show (s.remaining - 1#24).toNat + (k + 1) = data.length
    omega
  · have hsent' : s.sent = _ := h.sent
    have htake : data.take (k + 1) = data.take k ++ [d] := by rw [List.take_succ_eq_append_getElem hlt, hd]
    rw [hsent, htake, List.drop_append_of_le_length (by rw [List.length_take]; omega), ← List.append_assoc, ← hsent']
    rfl

/-- The command frame of a WRITE is a page program. -/
theorem State.Closes.eq_pp {i : Instr} (h : s.Closes i) (hs : s.seq = .cDes) (ho : s.op = codeWrite) :
    ∃ b d, i = .pp b d ∧ s.ProgramFrame b d := by
  cases i with
  | pp b d => exact ⟨b, d, rfl, h.2.2.1⟩
  | readData b n => exact absurd (h.2.1.symm.trans ho) (by decide)
  | se b => exact absurd (h.2.1.symm.trans ho) (by decide)
  | be => exact absurd (h.2.symm.trans ho) (by decide)
  | rdsr => cases hs.symm.trans (show s.seq = .pDes from h)
  | wren => cases hs.symm.trans (show s.seq = .wDes from h)
  | readReq b n | writeReq b n | eraseSectorReq b n | eraseAllReq b n | waitReq b n | enableWriteReq b n => exact h.elim

/-- The chip programs the bytes of the open frame, and then holds all that are sent (R171, R217). -/
theorem State.Sending.programs {i : Instr} (h : s.Sending m a data rest j k) (hinv : s.Inv) (hq : s.ChipQuiet)
    (ht : s.transport ≠ .unfaithful) (hcap : s.params.capacity ≤ 2 ^ 24) (hin : a + data.length ≤ s.params.capacity)
    (hs : s.seq = .cDes) (hi : s.Closes i) (x : Nat) :
    (s.react (s.chip.reaction s.params i)).mem.read x = programmed m a (data.take k) x := by
  obtain ⟨b, d, rfl, hsent, _, hpage, _⟩ := hi.eq_pp hs h.op
  have hjk := h.some hs
  have hk := h.left
  have hsame : Instr.pp b d = .pp (BitVec.ofNat 24 (a + j)) ((data.take k).drop j) := by
    have hdecode := decode_frame_pp b d
    rw [← hsent, h.sent, decode_frame_pp] at hdecode
    exact (Except.ok.inj hdecode).symm
  obtain ⟨rfl, rfl⟩ := Instr.pp.inj hsame
  have hb : (BitVec.ofNat 24 (a + j)).toNat = a + j := by
    rw [BitVec.toNat_ofNat, Nat.mod_eq_of_lt (by omega)]
  have hlen : ((data.take k).drop j).length = k - j := by simp [Nat.min_eq_left hk]
  have hcommand : s.seq.commanding = true := by rw [hs]; rfl
  have hready : s.chip.ready = true :=
    Chip.ready_of ((hq ht).2 hcommand (by rw [h.op]; decide)) ((hq ht).1 (.inr (.inr hcommand)))
  obtain ⟨hreact, hread⟩ := Chip.reaction_pp (a := BitVec.ofNat 24 (a + j)) (d := (data.take k).drop j) hready
    (List.ne_nil_of_length_pos (by omega)) hinv.memory (by omega) (by omega)
  have hj : (data.take j).length = j := by simp; omega
  have happ := programmed_append h.mem ((data.take k).drop j) x
  have hsplit : data.take j ++ (data.take k).drop j = data.take k := by
    rw [← Nat.min_eq_left hjk.le, ← List.take_take, Nat.min_eq_left hjk.le, List.take_append_drop]
  rw [State.react_reaction ht hreact]
  show (s.chip.mem.program _ 0 _).read x = _
  rw [hread x, hb]
  rwa [hsplit, hj] at happ

/-- The page-program frame is closed: its bytes are in the array, and the WRITE goes on or is finished (R170, R217). -/
theorem State.Sending.closed_frame {c : Chip} (h : s.Sending m a data rest j k) (hs : s.seq = .cDes)
    (hm : ∀ x, c.mem.read x = programmed m a (data.take k) x) (hafter : afterInstr (closed s c) = .next t) :
    (t.seq = .pSel ∧ t.Between m a data rest k) ∨
      (k = data.length ∧ t.seq = .fin ∧ t.wdata = rest ∧ ∀ x, t.chip.mem.read x = programmed m a data x) := by
  have hcount := h.count
  have hoff : s.wdata = data.drop k ++ rest := by
    rw [← h.offered, State.offered_of_seq (by simp [hs])]
  have hafter' : t = afterCDes (closed s c) := by
    simpa [afterInstr, closed, hs] using hafter.symm
  rcases afterCDes_cases (closed s c) with ⟨_, hrem, heq⟩ | ⟨hlast, heq⟩ <;> rw [hafter', heq]
  · have hpos := Len.ne_zero_iff.mp hrem
    have hpos' : 1 ≤ s.remaining.toNat := hpos
    exact .inl ⟨rfl, h.op, by simp [State.enterPoll], by omega, h.addr, hcount, hoff, hm⟩
  · have hrem : s.remaining = 0#24 := by
      by_contra hne
      exact hlast ⟨h.op, hne⟩
    have hk : k = data.length := by simpa [hrem] using hcount
    subst hk
    rw [List.drop_length, List.nil_append] at hoff
    rw [List.take_length] at hm
    exact .inr ⟨rfl, rfl, hoff, hm⟩

/-- A row inside the page-program frame leads on in the WRITE, or to its end. -/
theorem State.Sending.row (h : s.Sending m a data rest j k) (hinv : s.Inv) (hq : s.ChipQuiet) (ht : s.transport ≠ .unfaithful)
    (hcap : s.params.capacity ≤ 2 ^ 24) (hin : a + data.length ≤ s.params.capacity) (hrow : Row s t) :
    (∃ j' k', t.Writing m a data rest j' k') ∨
      (t.seq = .fin ∧ t.wdata = rest ∧ ∀ x, t.chip.mem.read x = programmed m a data x) := by
  have hseq := h.seq
  cases hrow with
  | silent hs | accept w rest hs | status hl hs | dataRead hl hs | done hs => simp [hs] at hseq
  | select q hs =>
    simp only [List.mem_cons, Prod.mk.injEq, List.not_mem_nil, or_false] at hs
    rcases hs with ⟨hs, _⟩ | ⟨hs, _⟩ | ⟨hs, _⟩ <;> simp [hs] at hseq
  | held b hl hs hb => simp [State.btTx, hseq.resolve_left hs] at hb
  | sent b q hl hb hnext =>
    have hs := State.afterSend_seq hnext
    rcases hseq with hseq | hseq <;> simp [hseq] at hs
  | waits => exact .inl ⟨j, k, h.writing⟩
  | dataHeld d v hl hs hv => exact .inl ⟨j, k, (h.held hs hv).writing⟩
  | dataSent d v hl hs hv => exact .inl ⟨j, k + 1, (h.sent_byte hinv hs hv).writing⟩
  | close c st t hs hst hx hafter =>
    have hs' : s.seq = .cDes := by rcases hseq with hw | hd <;> simp_all
    obtain ⟨i, _, hi, _, hafter⟩ := hinv.close_row hs hx hafter
    exact (h.closed_frame hs' (h.programs hinv hq ht hcap hin hs' hi) hafter).imp (fun hb => ⟨k, k, hb.2.writing⟩) (·.2)

end

/-- Settles O56: the rows between the frames of a WRITE, and those inside its page-program frame. -/
theorem everyStepOfAWriteKeepsItsProgress : Obligations.EveryStepOfAWriteKeepsItsProgress := by
  intro m a data rest s t j k hinv hq ht hr _ hcap hin _ hwriting hstep
  rcases step_cases hstep with ⟨hr', _⟩ | ⟨_, hrow⟩
  · cases hr.symm.trans hr'
  · rcases hwriting.tick.cases with h | h
    · rcases h.row hinv.tick hq.tick ht hrow with hw | hgiven
      · exact .inl ⟨k, k, hw⟩
      · exact .inr (.inr hgiven)
    · rcases h.row hinv.tick hq.tick ht hcap hin hrow with hw | hdone
      · exact .inl hw
      · exact .inr (.inl hdone)

end Sys2Proof.Machine
end

section

namespace Sys2Proof.Machine

open Sys2Proof.Claims

/-! ## Stretches of a run (R279) -/

/-- A run leads from `s` to `t`, takes no request, and adds to the log what the lists say. -/
structure Passage (s t : State) (frames : List (List Byte)) (taken pushed : List Byte) (dones : Nat) : Prop where
  run : ∃ n, runSteps n s = .next t
  inputs : sameInputs s t
  requests : t.requests = s.requests
  adds : Adds s t frames taken pushed dones

theorem Passage.params {s t : State} {f : List (List Byte)} {a p : List Byte} {n : Nat} (h : Passage s t f a p n) :
    t.params = s.params := h.inputs.1

theorem Passage.pace {s t : State} {f : List (List Byte)} {a p : List Byte} {n : Nat} (h : Passage s t f a p n) :
    t.pace = s.pace := h.inputs.2.2.2

theorem Passage.trans {s t u : State} {f g : List (List Byte)} {a b p q : List Byte} {m n : Nat} (h : Passage s t f a p m)
    (h' : Passage t u g b q n) : Passage s u (f ++ g) (a ++ b) (p ++ q) (m + n) := by
  obtain ⟨⟨i, hi⟩, ⟨hp, hr, ht, hpace⟩, hreq, hadds⟩ := h
  obtain ⟨⟨j, hj⟩, ⟨hp', hr', ht', hpace'⟩, hreq', hadds'⟩ := h'
  exact ⟨⟨i + j, runSteps_trans hi hj⟩, ⟨hp'.trans hp, hr'.trans hr, ht'.trans ht, hpace'.trans hpace⟩, hreq'.trans hreq,
    hadds.trans hadds'⟩

/-- A run keeps the invariant and the chip quiet. -/
theorem runSteps_keeps (k : Nat) {s t : State} (h : s.Inv) (hq : s.ChipQuiet) (hrun : runSteps k s = .next t) :
    t.Inv ∧ t.ChipQuiet := by
  induction k generalizing s with
  | zero => cases hrun; exact ⟨h, hq⟩
  | succ k ih =>
    obtain ⟨u, hu, hk⟩ := andThen_eq_next hrun
    exact ih (stepKeepsTheInvariant _ _ h hu) (stepKeepsTheChipQuiet _ _ h hq hu) hk

/-- What a request needs of its environment to come to its end: no reset, the premises of R202 and R214, and polls enough. -/
structure State.Served (s : State) : Prop where
  rst : s.rst = false
  live : s.TransportLive
  faithful : s.TransportFaithful
  finishes : s.ChipFinishes
  polls : s.params.pollLimit = none ∨ s.pace = .prompt

theorem State.Served.of_same {s t : State} (h : s.Served) (hsame : sameInputs s t) : t.Served := by
  obtain ⟨hp, hr, ht, hpace⟩ := hsame
  refine ⟨hr.trans h.rst, ?_, ?_, fun n => ?_, hp ▸ hpace ▸ h.polls⟩
  · rw [State.TransportLive, ht]; exact h.live
  · rw [State.TransportFaithful, ht]; exact h.faithful
  · obtain ⟨k, hk, hf⟩ := h.finishes n
    rw [State.finishes_eq] at hf
    refine ⟨k, hk, ?_⟩
    rw [State.finishes_eq]
    show t.pace.finishes k = true
    rwa [hpace]

/-! ## Polls of a chip that finishes (R131, R214) -/

/-- A chip that finishes reads idle at some poll, at the first if it finishes at once. -/
theorem State.Served.exists_idle {s : State} (h : s.Served) : ∃ b, (s.after (4 * b + 3)).chip.wip = false ∧
    (∀ i < b, (s.after (4 * i + 3)).chip.wip = true) ∧ (s.pace = .prompt → b = 0) := by
  have hex : ∃ b, (s.after (4 * b + 3)).chip.wip = false := by
    obtain ⟨k, hk, hf⟩ := h.finishes s.draw
    rw [State.finishes_eq] at hf
    refine ⟨k, Chip.after_idle (i := k - s.draw) (by omega) ?_⟩
    rw [Nat.add_sub_cancel' hk]
    exact hf
  refine ⟨Nat.find hex, Nat.find_spec hex, fun i hi => ?_, fun hp => ?_⟩
  · simpa using Nat.find_min hex hi
  · exact (Nat.find_eq_zero hex).mpr (Chip.after_idle (i := 0) (by omega) (by rw [hp]; rfl))

/-- What polls change. -/
structure Polled (s t : State) : Prop where
  seq : t.seq = afterPoll s.op
  op : t.op = s.op
  curAddr : t.curAddr = s.curAddr
  remaining : t.remaining = s.remaining
  wdata : t.wdata = s.wdata
  mem : t.chip.mem = s.chip.mem
  idle : t.chip.wip = false

/-- The polls of a chip that finishes, to the one that reads idle. -/
theorem State.Served.exists_polled {s : State} (h : s.Served) (hs : s.seq = .pSel) (hop : s.op.toNat ≤ 5) :
    ∃ t b, Passage s t (List.replicate (b + 1) [opcRDSR, s.params.dummyTx]) [] [] 0 ∧ Polled s t ∧
      (s.pace = .prompt → b = 0) := by
  obtain ⟨b, hidle, hbusy, hprompt⟩ := h.exists_idle
  have hlim : ∀ i < b, s.params.pollLimit ≠ some (s.pollCnt + i + 1) := fun i hi => by
    rcases h.polls with hn | hp
    · simp [hn]
    · simp [hprompt hp] at hi
  obtain ⟨u, hu⟩ := exists_repolled h.rst hs h.live h.faithful b hbusy hlim
  have hsame := hu.same
  have huw : (u.after 3).chip.wip = false := by rw [hu.after]; exact hidle
  obtain ⟨st, hst, hrun⟩ := runSteps_poll_ends (s := u) ((congrArg State.rst hsame :).trans h.rst)
    ((congrArg State.seq hsame :).trans hs) (by rw [(congrArg State.transport hsame :)]; exact h.live)
    (by rw [(congrArg State.transport hsame :)]; exact h.faithful)
    (by rw [(congrArg State.op hsame :)]; exact hop) huw
  have hadds : Adds u (u.quiet.polledIdle st) [[opcRDSR, u.params.dummyTx]] [] [] 0 := Adds.of_poll rfl
  have hpar : u.params = s.params := (congrArg State.params hsame :)
  have hall := hu.adds.trans hadds
  rw [hpar, ← List.replicate_succ'] at hall
  refine ⟨u.quiet.polledIdle st, b, ⟨⟨_, runSteps_trans hu.run hrun⟩, ?_, (congrArg State.requests hsame :), hall⟩, ?_, hprompt⟩
  · exact ⟨hpar, (congrArg State.rst hsame :), (congrArg State.transport hsame :), (congrArg State.pace hsame :)⟩
  · exact ⟨congrArg afterPoll (congrArg State.op hsame :), (congrArg State.op hsame :), (congrArg State.curAddr hsame :),
      (congrArg State.remaining hsame :), (congrArg State.wdata hsame :), (congrArg (·.chip.mem) hsame :), rfl⟩

/-! ## The data of a page program (R163) -/

/-- The events of the bytes `d` taken and sent. -/
def writeEvents (d : List Byte) : List Event := d.flatMap fun b => [.taken b, out b]

theorem writeEvents_facts (d : List Byte) : (∀ e ∈ writeEvents d, e ≠ .sel ∧ e ≠ .des) ∧ bytesToClose (writeEvents d) = d ∧
    takenBytes (writeEvents d) = d ∧ pushedBytes (writeEvents d) = [] ∧ doneCount (writeEvents d) = 0 := by
  induction d with
  | nil => exact ⟨by simp [writeEvents], rfl, rfl, rfl, rfl⟩
  | cons b d ih =>
    obtain ⟨hn, hb, ht, hp, hd⟩ := ih
    refine ⟨?_, congrArg (b :: ·) hb, congrArg (b :: ·) ht, hp, hd⟩
    intro e he
    simp only [writeEvents, List.flatMap_cons, List.mem_append, List.mem_cons, List.not_mem_nil, or_false] at he
    rcases he with (rfl | rfl) | he
    · simp
    · simp [out]
    · exact hn e he

/-- `s` after the bytes `d` are taken and sent and `l` is left at the port, the chip being idle. -/
def State.dataSents (s : State) (d l : List Byte) : State :=
  { s with
    seq := .cDes
    curAddr := s.curAddr + BitVec.ofNat 24 d.length
    remaining := s.remaining - BitVec.ofNat 24 d.length
    chunk := 0#9
    frame := s.frame ++ d.map fun b => { tx := b, rx := none }
    wdata := l
    draw := s.draw + d.length
    events := s.events ++ writeEvents d }

/-- Lengths go down byte by byte. -/
theorem Len.sub_one_sub (n : Len) (k : Nat) : n - 1#24 - BitVec.ofNat 24 k = n - BitVec.ofNat 24 (k + 1) := by bv_omega

theorem State.dataSents_cons {s : State} (ho : s.outstanding = none) (b : Byte) (d l l' : List Byte) :
    (State.dataSent (State.observe { s with draw := s.draw + 1, wdata := l' } (.taken b)) b).dataSents d l =
      s.dataSents (b :: d) l := by
  simp [State.dataSents, State.dataSent, writeEvents, State.goTo, State.countByte, State.countChunk, State.observe,
    State.exchange, ho, out, Addr.add_one_add, Len.sub_one_sub, Nat.add_assoc, Nat.add_comm 1]

/-- From C_WR one step a byte takes the bytes offered and sends them, to the end of the chunk (R163, R164). -/
theorem runSteps_dataSents (d : List Byte) {s : State} {l : List Byte} (hr : s.rst = false)
    (hs : s.seq = if s.chunk = 0#9 then .cDes else .cWr) (ho : s.outstanding = none) (hl : s.transport ≠ .stalled)
    (hw : s.chip.wip = false) (hd : s.wdata = d ++ l) (hc : s.chunk.toNat = d.length) :
    runSteps d.length s = .next (s.dataSents d l) := by
  induction d generalizing s with
  | nil =>
    have h0 : s.chunk = 0#9 := BitVec.eq_of_toNat_eq hc
    rw [if_pos h0] at hs
    obtain ⟨⟩ := s
    simp_all [runSteps, State.dataSents, writeEvents]
  | cons b d ih =>
    rw [List.length_cons] at hc
    have hne : s.chunk ≠ 0#9 := by rintro h0; simp [h0] at hc
    rw [if_neg hne] at hs
    have htick : s.tick = { s with draw := s.draw + 1 } := by rw [State.tick_eq, State.after_of_idle 1 hw]
    let v := State.observe { s with draw := s.draw + 1, wdata := d ++ l } (.taken b)
    have htakes : s.tick.Takes b v := by rw [htick]; exact .inr ⟨ho, d ++ l, hd, rfl⟩
    have hstep := step_dataSent hr hs hl htakes
    have hrun := ih (s := v.dataSent b) hr rfl rfl hl hw rfl
      (show (s.chunk - 1#9).toNat = d.length by rw [chunk_toNat_pred (by omega)]; omega)
    rw [List.length_cons, runSteps_of_step hstep, hrun, State.dataSents_cons ho]

/-- `s`, in C_SEL, with a page-program frame of the bytes `d` sent and still open, and `l` left at the port. -/
def State.pageSent (s : State) (d l : List Byte) : State := (s.addressed opcPP .cWr).dataSents d l

theorem runSteps_pageSent {s : State} {d l : List Byte} (hr : s.rst = false) (hs : s.seq = .cSel) (ho : s.op = codeWrite)
    (hl : s.transport ≠ .stalled) (hw : s.chip.wip = false) (hne : s.chunk ≠ 0#9) (hc : s.chunk.toNat = d.length)
    (hd : s.wdata = d ++ l) : runSteps (5 + d.length) s = .next (s.pageSent d l) := by
  have hq : afterHeader s = some .cWr := by simp [afterHeader, ho, codeRead, codeWrite, codeEraseSector, hne]
  have hhead := runSteps_addressed (opc := opcPP) hr hs hl (by rw [ho]; rfl) (by rw [ho]; decide) hq hw
  have hseq : (s.addressed opcPP .cWr).seq = if (s.addressed opcPP .cWr).chunk = 0#9 then .cDes else .cWr :=
    (if_neg (show (s.addressed opcPP .cWr).chunk ≠ 0#9 from hne)).symm
  exact runSteps_trans hhead (runSteps_dataSents d (s := s.addressed opcPP .cWr) hr hseq rfl hl hw hd hc)

end Sys2Proof.Machine
end

section

namespace Sys2Proof.Machine

open Sys2Proof.Claims

/-! ## One chunk of a WRITE on a chip that finishes (R160, R165) -/

section

variable {m : Mem} {a : Nat} {data more : List Byte} {s t : State} {k : Nat}

/-- The write-enable frame. -/
theorem passage_enabled (hserved : s.Served) (hs : s.seq = .wSel) (hw : s.chip.wip = false) :
    Passage s s.enabled [[opcWREN]] [] [] 0 := by
  refine ⟨⟨3, runSteps_enabled hserved.rst hs hserved.live hserved.faithful hw⟩, ⟨rfl, rfl, rfl, rfl⟩, rfl, ?_⟩
  exact Adds.of_frame (body := [out opcWREN]) (by simp [out]) rfl

/-- What a page-program frame adds, `t` being the state in which it is closed. -/
theorem State.adds_pageSent {d l : List Byte} (ht : t.events = (s.pageSent d l).events ++ [.des]) :
    Adds s t [header opcPP s.curAddr ++ d] d [] 0 := by
  obtain ⟨hn, hb, htk, hp, hd⟩ := outs_facts (header opcPP s.curAddr)
  obtain ⟨hn', hb', ht', hp', hd'⟩ := writeEvents_facts d
  let body := (header opcPP s.curAddr).map out ++ writeEvents d
  have hbody : ∀ e ∈ body, e ≠ .sel ∧ e ≠ .des := fun e he => (List.mem_append.mp he).elim (hn e) (hn' e)
  have hevents : t.events = s.events ++ (.sel :: body ++ [.des]) := by
    rw [ht]
    simp [State.pageSent, State.dataSents, State.addressed, body]
  have hframe := Adds.of_frame hbody hevents
  rwa [bytesToClose_append hn, takenBytes_append, pushedBytes_append, doneCount_append, hb, hb', htk, ht', hp, hp', hd, hd']
    at hframe

/-- With the page-program frame of its next `c` bytes sent, a WRITE is `Sending` them. -/
theorem State.Between.pageSent {c : Nat} (h : s.Between m a data more k) (h1 : 1 ≤ c) (hle : k + c ≤ data.length) :
    (s.pageSent ((data.drop k).take c) (data.drop (k + c) ++ more)).Sending m a data more k (k + c) := by
  have hcount := h.count
  have hlt := s.remaining.isLt
  have hlen : ((data.drop k).take c).length = c := by simp; omega
  refine ⟨h.op, .inr rfl, by omega, hle, ?_, ?_, rfl, h.mem, ?_, fun _ => by omega⟩
  · show s.curAddr + BitVec.ofNat 24 ((data.drop k).take c).length = _
    rw [hlen, h.addr, ← BitVec.ofNat_add, Nat.add_assoc]
  · show (s.remaining - BitVec.ofNat 24 ((data.drop k).take c).length).toNat + (k + c) = data.length
    rw [hlen]
    bv_omega
  · rw [List.drop_take, Nat.add_sub_cancel_left, ← h.addr]
    simp [State.sent, State.pageSent, State.dataSents, State.addressed, header, Function.comp_def]

/-- From C_SEL a WRITE sends the page-program frame of its chunk. -/
theorem State.Between.runSteps_page (h : s.Between m a data more k) (hserved : s.Served) (hinv : s.Inv) (hq : s.ChipQuiet)
    (hs : s.seq = .cSel) {c : Nat} (hc : c = chunkSize s.curAddr s.remaining) :
    ∃ n, runSteps n s = .next (s.pageSent ((data.drop k).take c) (data.drop (k + c) ++ more)) ∧
      (s.pageSent ((data.drop k).take c) (data.drop (k + c) ++ more)).Sending m a data more k (k + c) := by
  have hcnt := hinv.count
  simp only [State.CountOk, hs] at hcnt
  obtain ⟨_, hchunk⟩ := hcnt h.op
  have hcount := h.count
  have hk := h.left
  have hpos : 1 ≤ c := hc ▸ chunkSize_pos (Len.ne_zero_iff.mpr (by omega))
  have hle : c ≤ s.remaining.toNat := hc ▸ chunkSize_le_remaining _ _
  have hne : s.chunk ≠ 0#9 := by rintro h0; simp [h0] at hchunk; omega
  have hidle : s.chip.wip = false := (hq hserved.faithful).1 (.inr (.inr (by rw [hs]; rfl)))
  have hlen : s.chunk.toNat = ((data.drop k).take c).length := by simp; omega
  have hwdata : s.wdata = (data.drop k).take c ++ (data.drop (k + c) ++ more) := by
    rw [h.wdata, ← List.append_assoc, ← List.drop_drop, List.take_append_drop]
  exact ⟨_, runSteps_pageSent hserved.rst hs h.op hserved.live hidle hne hlen hwdata, h.pageSent hpos (by omega)⟩

/-- The page-program frame of a chunk, closed. -/
theorem State.Between.exists_page (h : s.Between m a data more k) (hserved : s.Served) (hinv : s.Inv) (hq : s.ChipQuiet)
    (hcap : s.params.capacity ≤ 2 ^ 24) (hin : a + data.length ≤ s.params.capacity) (hs : s.seq = .cSel) {c : Nat}
    (hc : c = chunkSize s.curAddr s.remaining) :
    ∃ t, Passage s t [header opcPP s.curAddr ++ (data.drop k).take c] ((data.drop k).take c) [] 0 ∧
      ((t.seq = .pSel ∧ t.Between m a data more (k + c)) ∨
        (k + c = data.length ∧ t.seq = .fin ∧ t.wdata = more ∧ ∀ x, t.chip.mem.read x = programmed m a data x)) := by
  obtain ⟨n, hrun, hsending⟩ := h.runSteps_page hserved hinv hq hs hc
  let v := s.pageSent ((data.drop k).take c) (data.drop (k + c) ++ more)
  obtain ⟨hvinv, hvq⟩ := runSteps_keeps n hinv hq hrun
  obtain ⟨t, hstep⟩ := hvinv.step_next (s := v) hserved.rst (by simp [v, State.pageSent, State.dataSents])
  obtain ⟨i, hi, hafter⟩ := hvinv.close_step (s := v) hserved.rst (.inr (.inr rfl)) hstep
  have hmem := hsending.tick.programs (s := v.tick) hvinv.tick hvq.tick hserved.faithful hcap hin rfl hi
  have heq := afterInstr_eq hafter
  refine ⟨t, ⟨⟨_, runSteps_trans hrun (runSteps_one hstep)⟩, ?_, ?_, ?_⟩, hsending.tick.closed_frame (s := v.tick) rfl hmem hafter⟩
  · rw [heq]; exact ⟨rfl, rfl, rfl, rfl⟩
  · rw [heq]; rfl
  · exact State.adds_pageSent (l := data.drop (k + c) ++ more) (by rw [heq]; rfl)

/-- One chunk: polls, the write-enable frame, the page-program frame. -/
theorem State.Between.exists_chunk (h : s.Between m a data more k) (hserved : s.Served) (hinv : s.Inv)
    (hcap : s.params.capacity ≤ 2 ^ 24) (hin : a + data.length ≤ s.params.capacity) (hs : s.seq = .pSel) {c : Nat}
    (hc : c = chunkSize s.curAddr s.remaining) :
    ∃ t b, Passage s t (List.replicate (b + 1) [opcRDSR, s.params.dummyTx] ++
        [[opcWREN], header opcPP s.curAddr ++ (data.drop k).take c]) ((data.drop k).take c) [] 0 ∧
      (s.pace = .prompt → b = 0) ∧
      ((t.seq = .pSel ∧ t.Between m a data more (k + c)) ∨
        (k + c = data.length ∧ t.seq = .fin ∧ t.wdata = more ∧ ∀ x, t.chip.mem.read x = programmed m a data x)) := by
  obtain ⟨u, b, hpoll, hu, hb⟩ := hserved.exists_polled hs (by rw [h.op]; decide)
  have huseq : u.seq = .wSel := by rw [hu.seq, h.op]; rfl
  have hu' : u.Between m a data more k := h.of_same (by simp [huseq]) ⟨hu.op, hu.curAddr, hu.remaining, hu.wdata⟩ hu.mem
  have hen := passage_enabled (hserved.of_same hpoll.inputs) huseq hu.idle
  have hpre := hpoll.trans hen
  have heseq : u.enabled.seq = .cSel := if_neg (by rw [hu'.op]; decide)
  have he : u.enabled.Between m a data more k := hu'.of_same (by simp [heseq]) ⟨rfl, rfl, rfl, rfl⟩ rfl
  obtain ⟨n, hrun⟩ := hpre.run
  obtain ⟨hinv', hq'⟩ := runSteps_keeps n hinv
    (State.chipQuiet_of_seq (by simp [hs, Seq.enabling, Seq.commanding])) hrun
  have hpar : u.enabled.params = s.params := hpre.params
  have haddr : u.enabled.curAddr = s.curAddr := hu.curAddr
  have hremaining : u.enabled.remaining = s.remaining := hu.remaining
  obtain ⟨t, hpage, hend⟩ := he.exists_page (hserved.of_same hpre.inputs) hinv' hq' (by rw [hpar]; exact hcap)
    (by rw [hpar]; exact hin) heseq (c := c) (by rw [haddr, hremaining]; exact hc)
  rw [haddr] at hpage
  refine ⟨t, b, ?_, hb, hend⟩
  have hall := hpre.trans hpage
  rw [List.append_assoc] at hall
  exact hall

/-- All chunks of a WRITE that is about to poll. -/
theorem State.Between.exists_end (fuel : Nat) (h : s.Between m a data more k) (hserved : s.Served) (hinv : s.Inv)
    (hcap : s.params.capacity ≤ 2 ^ 24) (hin : a + data.length ≤ s.params.capacity) (hs : s.seq = .pSel)
    (hfuel : s.remaining.toNat ≤ fuel) :
    ∃ t ks, Passage s t (writeFrames s.params.dummyTx ks (splitWrite fuel s.curAddr s.remaining) (data.drop k)) (data.drop k)
        [] 0 ∧
      ks.length = (splitWrite fuel s.curAddr s.remaining).length ∧ (s.pace = .prompt → ∀ b ∈ ks, b = 0) ∧
      t.seq = .fin ∧ t.wdata = more ∧ ∀ x, t.chip.mem.read x = programmed m a data x := by
  induction fuel generalizing s k with
  | zero =>
    have := h.left
    have := h.count
    omega
  | succ fuel ih =>
    have hk := h.left
    have hcount := h.count
    have hrem : s.remaining ≠ 0#24 := Len.ne_zero_iff.mpr (by omega)
    obtain ⟨c, hc⟩ : ∃ c, c = chunkSize s.curAddr s.remaining := ⟨_, rfl⟩
    obtain ⟨t, b, hchunk, hb, hend⟩ := h.exists_chunk hserved hinv hcap hin hs hc
    have hle : c ≤ s.remaining.toNat := hc ▸ chunkSize_le_remaining _ _
    have hleft : (s.remaining - BitVec.ofNat 24 c).toNat = s.remaining.toNat - c := by bv_omega
    have hpar : t.params = s.params := hchunk.params
    rw [splitWrite, if_neg hrem, ← hc]
    rcases hend with ⟨hseq, hnext⟩ | ⟨hlast, hseq, hwd, hmem⟩
    · have hcount' := hnext.count
      have haddr : t.curAddr = s.curAddr + BitVec.ofNat 24 c := by
        rw [hnext.addr, h.addr, ← BitVec.ofNat_add, Nat.add_assoc]
      have hremaining : t.remaining = s.remaining - BitVec.ofNat 24 c := BitVec.eq_of_toNat_eq (by omega)
      obtain ⟨n, hrun⟩ := hchunk.run
      obtain ⟨hinv', _⟩ := runSteps_keeps n hinv (State.chipQuiet_of_seq (by simp [hs, Seq.enabling, Seq.commanding])) hrun
      have hpos : 1 ≤ c := hc ▸ chunkSize_pos hrem
      obtain ⟨u, ks, hrest, hlen, hks, hend⟩ := ih hnext (hserved.of_same hchunk.inputs) hinv' (by rw [hpar]; exact hcap)
        (by rw [hpar]; exact hin) hseq (by omega)
      rw [haddr, hremaining] at hrest hlen
      have hall := hchunk.trans hrest
      refine ⟨u, b :: ks, ?_, congrArg (· + 1) hlen, fun hp => ?_, hend⟩
      · rw [hpar, List.append_assoc, ← List.drop_drop, List.take_append_drop] at hall
        exact hall
      · rw [hchunk.pace] at hks
        exact List.forall_mem_cons.mpr ⟨hb hp, hks hp⟩
    · have hzero : s.remaining - BitVec.ofNat 24 c = 0#24 :=
        BitVec.eq_of_toNat_eq (by rw [hleft]; exact Nat.sub_eq_zero_of_le (by omega))
      have htake : (data.drop k).take c = data.drop k := List.take_of_length_le (by simp; omega)
      rw [hzero, splitWrite_of_zero]
      refine ⟨t, [b], ?_, rfl, fun hp => ?_, hseq, hwd, hmem⟩
      · rw [htake] at hchunk
        rw [writeFrames, htake]
        exact hchunk
      · exact List.forall_mem_singleton.mpr (hb hp)

end

/-! ## A whole WRITE (R160 to R165) -/

/-- The premises of `WriteProgramsTheWholeRange`: a WRITE of `data` in contract is offered, to a chip that finishes. -/
structure State.OffersWrite (s : State) (a : Addr) (n : Len) (rest : List ReqWord) (data more : List Byte) : Prop where
  inv : s.Inv
  served : s.Served
  seq : s.seq = .idle
  requests : s.requests = packRequest codeWrite a n :: rest
  cap : s.params.capacity ≤ 2 ^ 24
  ne : n ≠ 0#24
  inside : a.toNat + n.toNat ≤ s.params.capacity
  length : data.length = n.toNat
  wdata : s.wdata = data ++ more

/-- A WRITE in contract comes to its end, with its data programmed and its frames sent. -/
theorem State.OffersWrite.exists_done {s : State} {a : Addr} {n : Len} {rest : List ReqWord} {data more : List Byte}
    (h : s.OffersWrite a n rest data more) :
    ∃ t ks, (∃ k, runSteps k s = .next t) ∧ t.seq = .idle ∧ sameInputs s t ∧ t.requests = rest ∧ t.wdata = more ∧
      (∀ x, t.chip.mem.read x = programmed s.chip.mem a.toNat data x) ∧
      Adds s t (writeFrames s.params.dummyTx ks (splitWrite n.toNat a n) data) data [] 1 ∧
      ks.length = (splitWrite n.toNat a n).length ∧ (s.pace = .prompt → ∀ b ∈ ks, b = 0) := by
  have hn := Len.ne_zero_iff.mp h.ne
  have hlength := h.length
  have hcap := h.cap
  have hinside := h.inside
  have hrange : rangeInContract s.params a n.toNat = true := by
    simp only [rangeInContract, Bool.and_eq_true, decide_eq_true_eq]
    omega
  have hword : wordInContract s.params (packRequest codeWrite a n) = true :=
    wordInContract_pack (by decide) (fun _ => hrange) fun h => absurd h (by decide)
  have hacc := step_accepted h.served.rst h.seq h.requests (.inr hword) (by decide) (.inr (.inl h.ne))
  let u := s.accepted codeWrite a n rest
  have hu : u.Between s.chip.mem a.toNat data more 0 := by
    refine ⟨rfl, by simp [u, State.accepted], by omega, ?_, hlength.symm, h.wdata, fun x => ?_⟩
    · simp [u, State.accepted]
    · simp [programmed, u, State.accepted, State.after]
  have hinv : u.Inv := stepKeepsTheInvariant _ _ h.inv hacc
  have hserved : u.Served := h.served.of_same ⟨rfl, rfl, rfl, rfl⟩
  have hin : a.toNat + data.length ≤ u.params.capacity := by
    rw [hlength]; exact hinside
  obtain ⟨v, ks, hpass, hlen, hks, hseq, hwd, hmem⟩ := hu.exists_end n.toNat hserved hinv hcap hin rfl (Nat.le_refl _)
  obtain ⟨⟨k, hrun⟩, ⟨hpar, hrst, htr, hpace⟩, hreq, hadds⟩ := hpass
  have hfin := step_fin (hrst.trans hserved.rst) hseq
  have hstart : Adds s u [] [] [] 0 := Adds.of_silent rfl
  have hdone := (hstart.trans hadds).trans (Adds.of_done (t := (v.tick.observe .done).goTo .idle) rfl)
  refine ⟨_, ks, ⟨1 + (k + 1), runSteps_trans (runSteps_one hacc) (runSteps_trans hrun (runSteps_one hfin))⟩, rfl,
    ⟨hpar, hrst, htr, hpace⟩, hreq, hwd, hmem, ?_, hlen, hks⟩
  simp only [List.drop_zero, List.nil_append, List.append_nil, Nat.zero_add] at hdone
  exact hdone

/-- In IDLE the chip is not selected, wherever the run began. -/
theorem released_of_run {k : Nat} {s t : State} (h : s.Inv) (hs : s.seq = .idle) (hrun : runSteps k s = .next t)
    (ht : t.seq = .idle) : t.btSelect = false := by
  have hsel := (runSteps_keeps k h (State.chipQuiet_of_seq (by simp [hs, Seq.enabling, Seq.commanding])) hrun).1.select
  rw [hsel, ht]
  rfl

/-- Settles O57: accepted, chunk by chunk to FIN, done. -/
theorem writeProgramsTheWholeRange : Obligations.WriteProgramsTheWholeRange := by
  intro s a n rest data more hinv hr hs hq hl ht hf hlim hp hcap hn hin hlen hw
  have hoffers : s.OffersWrite a n rest data more := ⟨hinv, ⟨hr, hl, ht, hf, hlim⟩, hs, hq, hcap, hn, hin, hlen, hw⟩
  obtain ⟨t, ks, ⟨k, hrun⟩, hseq, _, hreq, hwd, hmem, hadds, hks, hprompt⟩ := hoffers.exists_done
  obtain ⟨ev, hev, hframes⟩ := hadds.frames
  refine ⟨k, t, hrun, ⟨?_, hadds.dones, hseq, released_of_run hinv hs hrun hseq, ?_, ?_⟩, hreq, hwd, hmem, ev, ks, hev, hks,
    hprompt, hframes⟩
  · rw [hq, hreq]; rfl
  · rw [hadds.taken, List.length_append, hlen]
    simp [writeLength]
  · rw [hadds.pushed, List.append_nil]
    simp [readLength, codeRead, codeWrite]

end Sys2Proof.Machine
end

section

namespace Sys2Proof.Machine

open Sys2Proof.Claims

/-! ## A READ behind a WRITE (R66, R265) -/

/-- A READ in contract comes to its end on any chip that finishes, and leaves it idle. -/
theorem State.Served.exists_read {s : State} {a : Addr} {n : Len} {rest : List ReqWord} (h : s.Served) (hs : s.seq = .idle)
    (hq : s.requests = packRequest codeRead a n :: rest) (ha : a.toNat < s.params.capacity)
    (hin : a.toNat + n.toNat ≤ s.params.capacity) :
    ∃ t f, (∃ k, runSteps k s = .next t) ∧ t.seq = .idle ∧ t.requests = rest ∧ t.chip.wip = false ∧
      Adds s t f [] (s.chip.mem.bytes a.toNat n.toNat) 1 := by
  have hrange : rangeInContract s.params a n.toNat = true := by simp [rangeInContract, ha, hin]
  have hword : wordInContract s.params (packRequest codeRead a n) = true :=
    wordInContract_pack (by decide) (fun _ => hrange) fun h => absurd h (by decide)
  have hacc := step_accepted h.rst hs hq (.inr hword) (by decide) (.inl (by decide))
  let u := s.accepted codeRead a n rest
  have hserved : u.Served := h.of_same ⟨rfl, rfl, rfl, rfl⟩
  obtain ⟨t, b, hpass, ht, _⟩ := hserved.exists_polled rfl (show codeRead.toNat ≤ 5 by decide)
  have hserved' := hserved.of_same hpass.inputs
  have hpar : t.params = s.params := hpass.params
  have haddr : t.curAddr = a := ht.curAddr
  have hrem : t.remaining = n := ht.remaining
  have hread := runSteps_readDone hserved'.rst ht.seq ht.op hserved'.live hserved'.faithful ht.idle
    (by rw [haddr, hpar]; exact ha) (by rw [haddr, hrem, hpar]; exact hin)
  obtain ⟨k, hrun⟩ := hpass.run
  have hstart : Adds s u [] [] [] 0 := Adds.of_silent rfl
  have hall := (hstart.trans hpass.adds).trans t.adds_readDone
  have hmem : t.chip.mem = s.chip.mem := ht.mem
  rw [haddr, hrem, hmem] at hall
  exact ⟨t.readDone, _, ⟨_, runSteps_trans (runSteps_one hacc) (runSteps_trans hrun hread)⟩, rfl, hpass.requests,
    congrArg Chip.wip (Chip.after_of_idle _ _ _ ht.idle) |>.trans ht.idle, hall⟩

/-- What is programmed into erased cells reads back as it is (R265). -/
theorem Mem.bytes_of_programmed {m m' : Mem} {a : Nat} {d : List Byte} (h : ∀ x, m'.read x = programmed m a d x)
    (he : Erased m a d.length) : m'.bytes a d.length = d := by
  refine List.ext_getElem (by simp) fun i hi hd => ?_
  have hcell : m'.read (a + i) = m.read (a + i) &&& d[i] := by
    rw [h, programmed, if_pos (Nat.le_add_right a i), Nat.add_sub_cancel_left, List.getElem?_eq_getElem hd]
  rw [he i hd] at hcell
  simp only [Mem.bytes, List.getElem_map, List.getElem_range', Nat.one_mul]
  rw [hcell]
  exact BitVec.allOnes_and

/-- Settles O58: the WRITE of `State.OffersWrite.exists_done`, then the READ of `State.Served.exists_read`. -/
theorem writeThenReadGivesTheDataBack : Obligations.WriteThenReadGivesTheDataBack := by
  intro s a n rest data more hinv hr hs hq hl ht hf hlim hp hcap hn hin hlen hw herased
  have hserved : s.Served := ⟨hr, hl, ht, hf, hlim⟩
  have hoffers : s.OffersWrite a n (packRequest codeRead a n :: rest) data more :=
    ⟨hinv, hserved, hs, hq, hcap, hn, hin, hlen, hw⟩
  obtain ⟨t, ks, ⟨j, hwrite⟩, htseq, hsame, htreq, _, hmem, hadds, _, _⟩ := hoffers.exists_done
  have hpar : t.params = s.params := hsame.1
  have h1 := Len.ne_zero_iff.mp hn
  obtain ⟨u, f, ⟨k, hread⟩, hseq, hreq, hidle, hadds'⟩ := (hserved.of_same hsame).exists_read htseq htreq
    (by rw [hpar]; omega) (by rw [hpar]; exact hin)
  have hall := hadds.trans hadds'
  have hback : t.chip.mem.bytes a.toNat n.toNat = data := by
    rw [← hlen]
    exact Mem.bytes_of_programmed hmem (by rw [hlen]; exact herased)
  rw [hback] at hall
  have hrun := runSteps_trans hwrite hread
  refine ⟨j + k, u, hrun, ⟨⟨?_, hall.dones, hseq, released_of_run hinv hs hrun hseq, ?_, ?_⟩, hidle⟩, hreq, hall.pushed⟩
  · rw [hq, hreq]; rfl
  · rw [hall.taken, List.length_append, List.length_append, hlen]
    simp [writeLength, codeRead, codeWrite]
  · rw [hall.pushed, List.length_append, List.length_append, hlen]
    simp [readLength, codeRead, codeWrite]

end Sys2Proof.Machine
end
